-- ==== Sys2Proof/Word.lean ====
section
/-! DEFINITION. The word types of the register interface and the plainest arithmetic on them (R9 to R12). -/

namespace Sys2Proof

/-- A byte of a frame, a ring entry or a record. -/
abbrev Byte := BitVec 8

/-- A direct register (R12: 32 bits wide, accessed whole). -/
abbrev Word := BitVec 32

/-- 64 bits as an unsigned number: the wrap of a counter (R317) or of a grain count (R499). -/
def two64 : Nat := 2 ^ 64

/-- 32-bit modulus of sequence numbers. -/
def two32 : Nat := 2 ^ 32

/-- 16-bit modulus of the ring counts (R540). -/
def two16 : Nat := 65536

end Sys2Proof
end

