-- ==== Sys2Proof/Syntax.lean ====
section
/-! DEFINITION. The commands the block takes, one constructor of Instr per row of spec/opcode_table.json, with the
row's operands. A Rontis command carries its 64-byte entry (R546); where the command names a record in host memory
(R551), the bytes the device reads there are an operand. What reaches the device from a wire, a pin, a sensor or a
meter is an operand of the event. Ports and lanes are named by their global ID (R6), dies by their number. -/

namespace Sys2Proof

/-- A Rontis command entry as fetched from a ring (R546), without its OPCODE, which the row gives. -/
structure Cmd where
  die    : Nat          -- die whose ring holds the entry
  ring   : Nat          -- ring, 0 to 7
  tag    : BitVec 32    -- TAG
  flags  : BitVec 8     -- FLAGS: bit 0 FENCE, the rest reserved
  rsv    : BitVec 8     -- reserved byte 3
  result : BitVec 64    -- RESULT_ADDR
  params : BitVec 384   -- PARAMS, entry bytes 16 to 63
  deriving DecidableEq, Repr

/-- The PCIe functions of a die (R576). -/
inductive Fn where
  | pf0
  | pf1
  | vf (n : Nat)
  deriving DecidableEq, Repr

/-- A punt ring of PF1 or the tap ring of a VF (R592). -/
inductive PRing where
  | punt (r : Nat)
  | tap (vf : Nat)
  deriving DecidableEq, Repr

/-- A VOQ: its ingress die, its target (an egress port, or a destination die when mc) and its class (R378). -/
structure VoqKey where
  die    : Nat
  mc     : Bool
  target : Nat
  tc     : Nat
  deriving DecidableEq, Repr

/-- How an Ethernet frame ended, its bytes apart (R404). -/
inductive EthErr where
  | none      -- every block good
  | framing   -- an error control character or an invalid PCS block
  | fec       -- a block of an uncorrectable FEC codeword
  deriving DecidableEq, Repr

/-- An error that a memory read reports to its die (R600, R601): a correctable or an uncorrectable word. -/
inductive MemErr where
  | none
  | ce (syndrome : BitVec 8)
  | ue (syndrome : BitVec 8)
  deriving DecidableEq, Repr

/-- A word that an access reads with an error: memory ID and ADDRESS of R600. Nothing is wrong when `err` is none. -/
structure Access where
  mem  : Nat
  addr : Nat
  err  : MemErr
  deriving DecidableEq, Repr

/-- What a restarting Keeper of a die meets when it copies its image from the image store (R616, R619): a word read with an
error, and the dies whose image stores hold an image that does not match its digest. -/
structure ImageCopy where
  die       : Nat
  word      : Nat
  err       : MemErr
  badImages : List Nat
  deriving DecidableEq, Repr

/-- What reading the two copies of a counter meets (R615), and the data bits that copy 0 holds when both words are
uncorrectable. -/
structure CntErr where
  index : Nat
  copy0 : MemErr
  copy1 : MemErr
  bits  : BitVec 64
  deriving DecidableEq, Repr

/-- What the eye monitor of a lane meets: whether the CDR is locked, and the bit errors of a dwell (R83, R94). -/
structure EyeReading where
  cdr    : Bool
  errors : BitVec 64
  deriving DecidableEq, Repr

/-- How a firmware write and the start-up that may follow it go: the read-back, the dies that fail a later step, and
whether d0 does (R677, R678, R682). -/
structure FwWrite where
  readBackOk : Bool
  failedDies : List Nat
  d0Fails    : Bool
  deriving DecidableEq, Repr

/-- PCIE_SPLIT as sampled, and whether link 1 of two is connected (R577, R717). -/
structure PcieLinks where
  split : Bool
  link1 : Bool
  deriving DecidableEq, Repr

/-- A decoded FEC codeword: the symbols corrected, none when it is uncorrectable, and whether every sync header in it is
valid after correction (R123, R124). -/
structure CwResult where
  corrected : Option Nat
  headersOk : Bool
  deriving DecidableEq, Repr

/-- The link status that the PCS of an Ethernet port reports, and the lanes on which its FEC reports alignment (R69). -/
structure EthStatus where
  pcs     : Bool
  aligned : BitVec 8
  deriving DecidableEq, Repr

/-- A turn of a slice's header pipeline, with the table entries that its lookups read with bad parity: the table code of
EV_TBL_PARITY and the place (R27, R281). -/
structure PipeTurn where
  slice : Nat
  bad   : List (Nat × Nat)
  deriving DecidableEq, Repr

/-- An arriving flit: of the control channel or not, and whether its parity is right (R392, R394). -/
structure FlitSeen where
  control  : Bool
  parityOk : Bool
  deriving DecidableEq, Repr

/-- What a boundary clock decides: the slave port that its best master clock algorithm selects, if any, and a new rate and a
step in ns for its domain (R504, R516). -/
structure ClockUpdate where
  rate  : Int
  step  : Int
  slave : Option Nat
  deriving DecidableEq, Repr

/-- A message that a boundary clock sends: the port, the bytes of the frame without its FCS, and the TS_ID of the
timestamp that it asks for (R510, R516). -/
structure BcMessage where
  port    : Nat
  message : List Byte
  tsReq   : Option Nat
  deriving DecidableEq, Repr

/-- What a journal entry or snapshot record tells the standby to apply (R157, R646). -/
inductive JBody where
  | command (opcode : Nat) (params : BitVec 384) (record : List Byte)
  | cancel (seq : Nat)
  | learn (die key dest tenant index : Nat) (kindGroup : Bool) (moves : List (Nat × Nat)) (victim : Option Nat)
  | macRemove (die index : Nat)
  | actionRun (id : Nat)
  | dieLost (die : Nat)
  | lease (epoch : Nat) (handover : Bool)
  | action (id domain t opcode : Nat) (params : BitVec 384) (record : List Byte)
  deriving DecidableEq, Repr

/-- What the firmware reads in the BODY fields of a SNAPSHOT frame, and whether the frame ends the stream (R652). -/
structure SnapBodies where
  bodies : List JBody
  last   : Bool
  deriving DecidableEq, Repr

/-- The commands of the block: one constructor per row of spec/opcode_table.json, in the table's order. -/
inductive Instr where
  -- Rontis commands
  | sysNop (c : Cmd)
  | sysInfo (c : Cmd)
  | sysEventMask (c : Cmd)
  | sysDieStatus (c : Cmd)
  | unknownCommand (opcode : BitVec 16) (c : Cmd)
  | portConfig (c : Cmd)
  | portStatus (c : Cmd)
  | portRetrain (c : Cmd)
  | portTest (c : Cmd)
  | portEyeScan (c : Cmd) (eye : EyeReading) (held : Bool)
  | portRelease (c : Cmd)
  | tenVeSet (c : Cmd)
  | tenVeGet (c : Cmd)
  | tenSet (c : Cmd)
  | tenGet (c : Cmd)
  | tenStatus (c : Cmd)
  | tblMacAdd (c : Cmd)
  | tblMacDel (c : Cmd)
  | tblMacFlush (c : Cmd)
  | tblMacGet (c : Cmd)
  | tblMacConfig (c : Cmd)
  | tblBdSet (c : Cmd)
  | tblRouteSet (c : Cmd)
  | tblRouteGet (c : Cmd)
  | tblErrModeSet (c : Cmd)
  | tblStatus (c : Cmd)
  | tblMcgSet (c : Cmd) (list : List Byte)
  | tblMcgGet (c : Cmd)
  | clsRuleSet (c : Cmd) (record : List Byte)
  | clsRuleGet (c : Cmd)
  | clsPortSet (c : Cmd)
  | clsParserSet (c : Cmd)
  | clsUdfSet (c : Cmd)
  | clsPuntRingSet (c : Cmd)
  | polSet (c : Cmd)
  | polGet (c : Cmd)
  | mirSet (c : Cmd)
  | mirTapSet (c : Cmd)
  | cntRead (c : Cmd) (err : Option CntErr)
  | cntClear (c : Cmd)
  | cntSnapSet (c : Cmd)
  | qosBufSet (c : Cmd)
  | qosBufProfileSet (c : Cmd)
  | qosVoqBind (c : Cmd)
  | qosTenBufSet (c : Cmd)
  | qosBufStatus (c : Cmd)
  | qosVoqStatus (c : Cmd)
  | qosPathSet (c : Cmd) (table : List Byte)
  | qosPathGet (c : Cmd)
  | qosCtSet (c : Cmd)
  | qosFabricStatus (c : Cmd)
  | qosWredSet (c : Cmd)
  | qosWredBind (c : Cmd)
  | qosFcSet (c : Cmd)
  | qosFcStatus (c : Cmd)
  | qosMcSet (c : Cmd)
  | qosSchedPortSet (c : Cmd)
  | qosSchedGroupSet (c : Cmd)
  | qosSchedMapSet (c : Cmd)
  | pwrCapSet (c : Cmd)
  | pwrPolicySet (c : Cmd)
  | pwrStatus (c : Cmd)
  | pwrAcctGet (c : Cmd)
  | pwrModelGet (c : Cmd)
  | timeGet (c : Cmd)
  | timeAdj (c : Cmd)
  | timePortSet (c : Cmd)
  | timePpsSet (c : Cmd)
  | timePpsGet (c : Cmd)
  | timeTxtsRead (c : Cmd)
  | schedAdd (c : Cmd) (embed : BitVec 512) (record : List Byte)
  | schedDel (c : Cmd)
  | schedGet (c : Cmd)
  | haConfig (c : Cmd)
  | haStatus (c : Cmd)
  | haHandover (c : Cmd)
  | haResync (c : Cmd)
  | memScrubSet (c : Cmd)
  | memLogRead (c : Cmd)
  | memRetire (c : Cmd)
  | memStatus (c : Cmd)
  | memChannelRestart (c : Cmd)
  | secAttest (c : Cmd)
  | secFwWrite (c : Cmd) (image : List Byte) (write : FwWrite)
  | secCfgWrite (c : Cmd) (block : List Byte) (readBackOk : Bool)
  | secFlashStatus (c : Cmd)
  | secFuseRead (c : Cmd)
  | secFuseProgram (c : Cmd) (digest : List Byte)
  -- registers, rings and interrupts
  | cmdDbWrite (die ring : Nat) (value : Word)
  | cplDbWrite (die ring : Nat) (value : Word)
  | evtDbWrite (die : Nat) (value : Word)
  | mbCtrlRestart (die : Nat) (value : Word)
  | indDataWrite (die : Nat) (value : Word)
  | indDataRead (die : Nat)
  | ringEnable (die : Nat)
  | ringDisable (die : Nat)
  | evtRingEnable (die : Nat)
  | evtRingDisable (die : Nat)
  | indirectWriteEffect (die : Nat)
  | registerWrite (die : Nat) (fn : Fn) (offset : Nat) (value : Word) (byteEnables : BitVec 4)
  | lockWrite (die : Nat) (value : Word)
  | guardAWrite (value : Word)
  | powerCapOverride (value : Word)
  | diePark (value : Word)
  | dieUnpark (value : Word)
  | leaseForceActive (value : Word)
  | leaseForceStandby (value : Word)
  | fuseProgEnable (value : Word)
  | guardedDirectWrite (offset : Nat) (value : Word)
  | guardWindowExpiry
  | fuseProgEnTimeout
  | poolTailWrite (die : Nat) (ring : PRing) (pool : Nat) (value : Word)
  | cplConsWrite (die : Nat) (ring : PRing) (value : Word)
  | msixVectorUnmask (die : Nat) (fn : Fn) (vec : Nat)
  | msixCoalesceTimeout (die : Nat) (fn : Fn) (vec : Nat)
  | pf0Flr (die : Nat)
  | pf1VfFlr (die : Nat) (fn : Fn)
  -- package power, reset and pins
  | pwrOkRise (failedDies : List Nat) (d0Fails : Bool)
  | pwrOkFall
  | railUndervoltage
  | refclkLoss
  | pcieRefclkLoss (die : Nat)
  | perstNAssert (die : Nat)
  | perstNRelease (die : Nat) (links : PcieLinks)
  | dieReady (die : Nat)
  | faultInAssert
  | thermalStopExit
  | queenInEdge
  | ppsInEdge (stamp : Nat) (confirmed : Bool)
  | ppsOutRise
  | ppsOutFall
  | debugMailboxAccess
  -- lanes, bring-up and blocks
  | signalDetectChange (lane : Nat) (level : Bool)
  | signalDetectValid (lane : Nat)
  | helloTxDue (port : Nat)
  | seekLockRestart (lane : Nat)
  | rxHello (lane : Nat) (content : BitVec 40) (crcOk : Bool)
  | pllLock (port : Nat)
  | laneLock (port skew : Nat)
  | coefRequestApplied (lane : Nat) (atLimit : Bool)
  | eqTrainingDone (port : Nat)
  | qualificationWindowEnd (port : Nat)
  | phaseBudgetExpiry (port : Nat) (failLane : Nat)
  | attemptLimitExpiry (port : Nat) (failLane : Nat)
  | helloSilenceExpiry (lane : Nat)
  | restartWaitExpiry (port : Nat)
  | rxCodeword (lane : Nat) (result : CwResult)
  | rxIdleBlock (port : Nat)
  | rxStartBlock (port : Nat) (header : BitVec 56)
  | rxDataBlock (port : Nat) (data : BitVec 64)
  | rxTerminateBlock (port : Nat) (k : Nat) (data : BitVec 56)
  | rxStompBlock (port : Nat) (reason : BitVec 8)
  | rxBadBlock (port : Nat) (lane : Nat) (badHeader inFec : Bool)
  | quarantineHoldoffEnd (port : Nat)
  | smokerHistoryReset (port : Nat)
  | rxRole (port : Nat) (content : BitVec 40)
  | rxPauseOs (port : Nat) (content : BitVec 40)
  | rxVeXoff (port : Nat) (content : BitVec 40)
  | rxOsUnknown (port : Nat)
  | rxOsBad (port : Nat)
  | roleKeepaliveDue (port : Nat)
  | roleRepeatDue (port : Nat)
  | l1IdleEntry (port : Nat)
  | l2DelayExpiry (port : Nat)
  | l2AnswerTimeout (port : Nat)
  | l2ExitCheckEnd (port : Nat) (pass : Bool)
  | l2ExitLimit (port : Nat)
  | ethAnExchange (port : Nat) (partner : List Nat)
  | anFailRepeat (port : Nat)
  | ethLinkStatusChange (port : Nat) (status : EthStatus)
  | ethRxFrame (port : Nat) (bytes : List Byte) (fin : Option EthErr)
  | ethRxMacControl (port : Nat) (bytes : List Byte)
  -- pipeline, tables and the slow path
  | headerPipelineTurn (die : Nat) (turn : PipeTurn)
  | lpmRecirculation (die : Nat) (turn : PipeTurn)
  | learnEvent (die : Nat)
  | learnEventTimeout (die : Nat)
  | agingVisit (die index : Nat)
  | tableParityRepair (die table index : Nat)
  | shadowCompareBlock (die table index : Nat) (chipBad imageBad : Bool)
  | puntDelivery (die : Nat) (entry : BitVec 128)
  | keeperForward (die : Nat)
  | tapDelivery (die : Nat) (entry : BitVec 128)
  -- comb, deep store, VOQs, fabric
  | allocatorClock (die : Nat) (acc : Access)
  | combAudit (die : Nat)
  | pageWriteStart (die : Nat)
  | pageWriteDone (die : Nat)
  | readbackStart (die : Nat)
  | readbackDone (die word : Nat) (err : MemErr)
  | creditGrant (port : Nat)
  | voqIdleReturn (q : VoqKey)
  | voqSend (q : VoqKey) (acc : Access)
  | flitRx (die channel : Nat) (flit : FlitSeen) (busFails : Nat)
  | bridgeRetrainDone (die channel : Nat)
  | bridgeChannelFail (die channel : Nat)
  | relayFlitSend (die channel : Nat)
  | pathDrainComplete (src dst : Nat)
  | heartbeatSilence (die : Nat)
  | heartbeatLossStop (die : Nat)
  -- egress, multicast, flow control
  | schedulerSelect (port : Nat)
  | frameTxEnd (port : Nat)
  | energyHoldCheck (port : Nat)
  | mcCopyJudge (die : Nat)
  | mcResidueTick (die : Nat)
  | wredAvgUpdate (die : Nat)
  | pauseRefreshDue (port : Nat)
  | veXoffRefreshDue (port ve : Nat)
  | pauseHoldExpiry (port tc : Nat)
  | veXoffHoldExpiry (port ve : Nat)
  | pauseWatchdogExpiry (port tc : Nat) (ve : Option Nat)
  | pauseIgnorePeriodEnd (port tc : Nat) (ve : Option Nat)
  -- power, time, events
  | energyWindowBoundary (metered : List Nat) (aon : Nat)
  | powerSensorSample (die : Nat) (rails : List (Nat × Nat)) (temps : List Int)
  | forecastUpdate
  | sliceRetentionEntry (die slice : Nat)
  | sliceOffEntry (die slice : Nat)
  | bankCloseStart (die : Nat)
  | bankOff (die : Nat)
  | bankWake (die : Nat)
  | schedActionRun
  | boundaryClockMessage (domain : Nat) (update : ClockUpdate) (send : BcMessage)
  | snapshotDue (die : Nat)
  | veSpoofEventDue (port : Nat)
  | overQuotaEventDue (die tenant : Nat)
  | keeperTrap (die cause : Nat)
  | firmwareWatchdogExpiry (die : Nat)
  | keeperRestartDone (r : ImageCopy)
  | mirrorRebuildDone
  | foragerLine (die memory : Nat) (errs : List (Nat × MemErr)) (badImages : List Nat)
  | freeListRebuild (die : Nat)
  | creditRecount (port : Nat)
  | dmaReadError (die channel cause : Nat)
  -- pairing
  | leaseRenewalDue
  | announceDue
  | peerRxRenew (frame : List Byte)
  | peerRxAnswer (frame : List Byte)
  | peerRxAnnounce (frame : List Byte)
  | peerRxReceipt (frame : List Byte)
  | peerRxJournal (frame : List Byte) (bodies : List JBody)
  | peerRxSnapshot (frame : List Byte) (read : SnapBodies)
  | answerMiss
  | leaseExpiryFence
  | leaseTakeover
  | formationTakeover
  | soloResumption
  | journalLagStale
  | resyncAutoStart
  | resyncComplete
  | handoverFence
  | failbackHoldDown
  | queenOutFall
  | receiptDue
  | bridgeChannelLockLoss (die channel : Nat)
  | guardBFailedWrite (value : Word)
  | prbsCheckerLock (lane : Nat) (bits : List Bool)
  | faultInDeassert
  | queenInFall
  | ppsInFall
  deriving DecidableEq, Repr

end Sys2Proof
end

