-- ==== Sys2Proof/Decode.lean ====
section
/-! DEFINITION. Commands from words. No row of the table gives bits: the block's commands are not encoded in words, so
no word spells one. -/

namespace Sys2Proof

/-- The command that a word spells by the table's bits: none, since no row gives bits. -/
def decodeTableWord (_nbits _w : Nat) : Option Instr := none

end Sys2Proof
end

