-- ==== Sys2Proof/Config.lean ====
section
/-! DEFINITION. What the spec leaves to an implementation or leaves open: the free values. None has a body, so nothing
can be proved of their values and every claim holds for all of them. Each names its log entry. -/

namespace Sys2Proof

/-- The die's pseudo-random generator (R262, R422): the n-th 16-bit draw of a die. Log entry 2. -/
opaque Config.draw16 : (die n : Nat) → BitVec 16

/-- SHA-384 of a byte string, as a 48-byte number (R666). The spec names the function and does not give it. Log
entry 3. -/
opaque Config.sha384 : List Byte → BitVec 384

/-- Whether an ECDSA P-384 signature verifies: key, message, signature (R666). Log entry 3. -/
opaque Config.ecdsaVerifies : List Byte → List Byte → List Byte → Bool

/-- The signature of SEC_ATTEST under the identity private key over the statement's first 480 bytes (R690). Log
entry 3. -/
opaque Config.attestSignature : List Byte → List Byte

/-- The tap settings (0 PRE, 1 MAIN, 2 POST) that the 16 bytes of a CAL_LANE record stand for (R683, R685). The spec does
not lay the record out. Log entry 4. -/
opaque Config.presetTap : (record : List Byte) → (tap : Nat) → Int

/-- The range of the hardware that applies a calibrated quantity (R683), which the spec does not state: 0 tap settings,
1 latency, 2 sensor trim, 3 meter gain, 4 current offset, 5 voltage offset. Log entry 4. -/
opaque Config.calRange : (quantity : Nat) → Int × Int

/-- The firmware code of EV_INTERNAL for the n-th raised event (R554). Log entry 4. -/
opaque Config.internalCode : Nat → BitVec 32

/-- The length at which the route compiler would store a route, when it compiles for the n-th time: VRF, family, length
and prefix of the route (R276 to R278). The spec bounds the choice and does not make it. Log entry 16. -/
opaque Config.storedLength : (n vrf family len prefixN : Nat) → Nat

/-- The BODY of a journal entry or snapshot record (R157), which is internal to the firmware version (R646). Log entry
57. -/
opaque Config.entryBody : JBody → List Byte

/-- The BODY of the n-th configuration record of a snapshot taken at SEQ s (R157, R652). Log entry 57. -/
opaque Config.configBody : (s n : Nat) → List Byte

/-- The bytes of the image of a table entry in a SHADOW region, of its fields when it is valid (R283: the layout is internal
to the device). Log entry 59. -/
opaque Config.image : (table : Nat) → (fields : Option (List Nat)) → List Byte

/-- Leakage energy in pJ, over one energy window, of a power domain: its row of R481, its fused coefficient, its state (0 ON) and
the die's mean sensor temperature in 1/16 degree C (R465). The spec gives no formula. Log entry 7. -/
opaque Config.leakagePj : (row coef state : Nat) → (temp : Int) → Nat

/-- The n-th value that the device takes where the spec states none. Log entry 18. -/
opaque Config.unstated : Nat → BitVec 64

end Sys2Proof
end

