-- ==== Sys2Proof/Machine/Bits.lean ====
section
/-! DEFINITION. Bit fields, byte strings, check sums and keyed lists: the helpers that the meanings share. -/

namespace Sys2Proof.Machine

/-- The field of `w` bits of `x` that begins at bit `lo` (R12). -/
def bitsOf (x lo w : Nat) : Nat := (x >>> lo) % 2 ^ w

/-- Bit `i` of `x`. -/
def bitOf (x i : Nat) : Bool := bitsOf x i 1 == 1

/-- A Boolean as one bit at place `i`. -/
def atBit (i : Nat) (b : Bool) : Nat := if b then 2 ^ i else 0

/-- The bits of `l` that are set, as a mask: bit n is `f n` for n below `k`. -/
def maskOf (k : Nat) (f : Nat → Bool) : Nat := ((List.range k).map fun n => atBit n (f n)).sum

/-- The numbers below `k` whose bit of `m` is set, ascending. -/
def bitList (k m : Nat) : List Nat := (List.range k).filter (bitOf m)

/-- A `w`-bit field read as a two's complement number. -/
def signedOf (w x : Nat) : Int := if x % 2 ^ w < 2 ^ (w - 1) then (x % 2 ^ w : Nat) else (x % 2 ^ w : Nat) - (2 ^ w : Nat)

/-- A number as a `w`-bit two's complement field. -/
def unsignedOf (w : Nat) (i : Int) : Nat := (i % (2 ^ w : Nat)).toNat

/-- `n` bytes of `v`, least significant first (R12). -/
def leBytes : Nat → Nat → List Byte
  | 0, _ => []
  | n + 1, v => BitVec.ofNat 8 v :: leBytes n (v / 256)

/-- `n` bytes of `v`, most significant first (network byte order). -/
def beBytes (n v : Nat) : List Byte := (leBytes n v).reverse

/-- The number that little-endian bytes spell. -/
def ofLe : List Byte → Nat
  | [] => 0
  | b :: r => b.toNat + 256 * ofLe r

/-- The number that bytes in network byte order spell. -/
def ofBe (l : List Byte) : Nat := l.foldl (fun a b => a * 256 + b.toNat) 0

/-- Byte `i` of a byte string as a number; 0 beyond its end. -/
def byteAt (l : List Byte) (i : Nat) : Nat := (l.getD i 0).toNat

/-- Bytes `i` to `i + n - 1` as a big-endian number; 0 beyond the end. -/
def be (l : List Byte) (i n : Nat) : Nat := ((List.range n).map fun k => byteAt l (i + k)).foldl (fun a b => a * 256 + b) 0

/-- Bytes `i` to `i + n - 1` as a little-endian number; 0 beyond the end. -/
def leAt (l : List Byte) (i n : Nat) : Nat := ofLe ((l.drop i).take n)

/-- The bytes from `i`, `n` of them (fewer at the end). -/
def slice (l : List Byte) (i n : Nat) : List Byte := (l.drop i).take n

/-- The string `l` cut or filled with zero bytes to `n` bytes. -/
def padTo (n : Nat) (l : List Byte) : List Byte := (l ++ List.replicate (n - l.length) 0).take n

/-- `l` with the bytes from `i` replaced by `v`. -/
def splice (l : List Byte) (i : Nat) (v : List Byte) : List Byte := l.take i ++ v ++ l.drop (i + v.length)

/-- ⌈a / b⌉. -/
def ceilDiv (a b : Nat) : Nat := (a + b - 1) / b

/-- One shift of a reflected CRC register. -/
def crcShift (poly r : Nat) : Nat := if r % 2 = 1 then (r / 2) ^^^ poly else r / 2

/-- A reflected CRC register after one more byte. -/
def crcByte (poly r : Nat) (b : Byte) : Nat :=
  let r := r ^^^ b.toNat
  crcShift poly (crcShift poly (crcShift poly (crcShift poly
    (crcShift poly (crcShift poly (crcShift poly (crcShift poly r)))))))

/-- CRC-32 of Ethernet frames (R104), as a number whose little-endian bytes are the FCS. -/
def crc32 (l : List Byte) : Nat := (l.foldl (crcByte 0xEDB88320) 0xFFFFFFFF) ^^^ 0xFFFFFFFF

/-- The HASH function of R257: CRC-32C. -/
def crc32c (l : List Byte) : Nat := (l.foldl (crcByte 0x82F63B78) 0xFFFFFFFF) ^^^ 0xFFFFFFFF

/-- CRC-8 of R126. -/
def crc8Step (c : Nat) : Nat := if c ≥ 128 then (c * 2 % 256) ^^^ 7 else c * 2
def crc8 (l : List Byte) : Nat := l.foldl (fun c b =>
  crc8Step (crc8Step (crc8Step (crc8Step (crc8Step (crc8Step (crc8Step (crc8Step (c ^^^ b.toNat))))))))) 0

/-- A frame with its FCS (R104). -/
def withFcs (l : List Byte) : List Byte := l ++ leBytes 4 (crc32 l)

/-- The start header of a Spindle frame with its HCRC (R108, R110). -/
def startHeader (h : Nat) : BitVec 56 := BitVec.ofNat 56 (h + 2 ^ 48 * crc8 (leBytes 6 h))

variable {κ α : Type}

/-- The entry of key `k` in a keyed list, or `dflt`. -/
def kget [DecidableEq κ] : List (κ × α) → κ → α → α
  | [], _, dflt => dflt
  | (k', v) :: r, k, dflt => if k' = k then v else kget r k dflt

/-- The entry of key `k`, if listed. -/
def kget? [DecidableEq κ] : List (κ × α) → κ → Option α
  | [], _ => none
  | (k', v) :: r, k => if k' = k then some v else kget? r k

/-- The list without the entries of key `k`. -/
def kdel [DecidableEq κ] : List (κ × α) → κ → List (κ × α)
  | [], _ => []
  | (k', v) :: r, k => if k' = k then kdel r k else (k', v) :: kdel r k

/-- The list with `v` as the entry of key `k`: in its place, or at the end where `k` was not listed. -/
def kput [DecidableEq κ] : List (κ × α) → κ → α → List (κ × α)
  | [], k, v => [(k, v)]
  | (k', v') :: r, k, v => if k' = k then (k, v) :: r else (k', v') :: kput r k v

/-- The list with `v` as the entry of key `k`; an entry equal to the reset entry `dflt` is not listed. -/
def kputD [DecidableEq κ] [DecidableEq α] (l : List (κ × α)) (k : κ) (v dflt : α) : List (κ × α) :=
  if v = dflt then kdel l k else kput l k v

/-- Element `i` replaced by its image under `f`; no change beyond the end. -/
def lmod : List α → Nat → (α → α) → List α
  | [], _, _ => []
  | a :: r, 0, f => f a :: r
  | a :: r, n + 1, f => a :: lmod r n f

/-- Elements in rotating order, starting after the first for which `here` holds. -/
def rotateAfter (l : List α) (here : α → Bool) : List α :=
  match l.findIdx? here with
  | some i => l.drop (i + 1) ++ l.take (i + 1)
  | none => l

/-- The first element of the list for which `f` answers a value, and that value. -/
def firstSome {β : Type} (f : α → Option β) : List α → Option β
  | [] => none
  | a :: r => match f a with
    | some b => some b
    | none => firstSome f r

end Sys2Proof.Machine
end

