-- ==== Sys2Proof/Machine/Flags.lean ====
section
/-! DEFINITION. The codes of the device: status codes (R552), drop reasons (R325), event codes (R572), the bits of
INT_CAUSE (R580) and the places of the counters (R318, R319 and each chapter's own table). -/

namespace Sys2Proof.Machine

/- Status codes of R552. -/
def stOk : Nat := 0x00
def stLateExecuted : Nat := 0x01
def stOverQuota : Nat := 0x02
def stBadArg : Nat := 0x10
def stNoRoom : Nat := 0x11
def stPastTime : Nat := 0x12
def stUnsupported : Nat := 0x13
def stRestarting : Nat := 0x20
def stNotActive : Nat := 0x21
def stStale : Nat := 0x22
def stLocked : Nat := 0x30
def stGuardFail : Nat := 0x31
def stInternal : Nat := 0x40

/- Drop reasons of R325. -/
def drRxFraming : Nat := 0x01
def drRxFcs : Nat := 0x02
def drRxFec : Nat := 0x03
def drRxStomp : Nat := 0x04
def drQuarantine : Nat := 0x05
def drRoleStandby : Nat := 0x06
def drIngressOverrun : Nat := 0x07
def drVeSpoof : Nat := 0x08
def drVeInvalid : Nat := 0x09
def drParseDepth : Nat := 0x0A
def drLenConflict : Nat := 0x0B
def drFragmentLimit : Nat := 0x0C
def drIpv4Csum : Nat := 0x0D
def drClsDeny : Nat := 0x0E
def drPuntFull : Nat := 0x0F
def drSameVe : Nat := 0x10
def drMacMiss : Nat := 0x11
def drLpmMiss : Nat := 0x12
def drTtlExpired : Nat := 0x13
def drPolicerRed : Nat := 0x14
def drQuota : Nat := 0x15
def drTapFull : Nat := 0x16
def drTapTenant : Nat := 0x17
def drCombEmpty : Nat := 0x18
def drStoreFull : Nat := 0x19
def drWred : Nat := 0x1A
def drPauseWatchdog : Nat := 0x1B
def drEnergyHold : Nat := 0x1C
def drPortDown : Nat := 0x1D
def drMcResidue : Nat := 0x1E
def drMcPruned : Nat := 0x1F
def drMcRed : Nat := 0x20
def drEgressDeny : Nat := 0x21
def drUeCell : Nat := 0x22
def drUeStore : Nat := 0x23
def drDieLost : Nat := 0x24

/- Event codes of R572. -/
def evLost : Nat := 0x0101
def evKeeperRestart : Nat := 0x0102
def evInternal : Nat := 0x0103
def evDieLost : Nat := 0x0104
def evBridgeRetrain : Nat := 0x0105
def evBridgeFail : Nat := 0x0106
def evCombFreeRefused : Nat := 0x0107
def evStoreFull : Nat := 0x0108
def evPortLink : Nat := 0x0201
def evPortStepFail : Nat := 0x0202
def evPortAnFail : Nat := 0x0203
def evPortQuarantine : Nat := 0x0204
def evVeSpoof : Nat := 0x0301
def evTenOverQuota : Nat := 0x0302
def evTblParity : Nat := 0x0401
def evTblShadow : Nat := 0x0402
def evCntSnap : Nat := 0x0601
def evPauseWatchdog : Nat := 0x0701
def evPwrCap : Nat := 0x0702
def evThermalStep : Nat := 0x0703
def evTxts : Nat := 0x0801
def evPpsIn : Nat := 0x0802
def evSchedDone : Nat := 0x0803
def evHaRole : Nat := 0x0901
def evHaStale : Nat := 0x0902
def evMemCe : Nat := 0x0A01
def evMemUe : Nat := 0x0A02
def evDmaHalt : Nat := 0x0A03

/-- The codes of the event code table (R572, R573). -/
def eventCodes : List Nat :=
  [evLost, evKeeperRestart, evInternal, evDieLost, evBridgeRetrain, evBridgeFail, evCombFreeRefused, evStoreFull,
   evPortLink, evPortStepFail, evPortAnFail, evPortQuarantine, evVeSpoof, evTenOverQuota, evTblParity, evTblShadow,
   evCntSnap, evPauseWatchdog, evPwrCap, evThermalStep, evTxts, evPpsIn, evSchedDone, evHaRole, evHaStale, evMemCe,
   evMemUe, evDmaHalt]

/- Bits of INT_CAUSE above the completion bits (R580). -/
def intEvt : Nat := 8
def intMbHalt : Nat := 9
def intReady : Nat := 10
def intFull : Nat := 11
def intLease : Nat := 12
def intThermal : Nat := 13

/- Slots of the counter space of a die (R318). -/
def slotPort (lane off : Nat) : Nat := 0xC0000 + 512 * lane + off
def slotTenant (t off : Nat) : Nat := 0xD0000 + 128 * t + off
def slotSlice (s off : Nat) : Nat := 0xF0000 + 256 * s + off
def slotDie (off : Nat) : Nat := 0xF0400 + off
def slotMirror (s off : Nat) : Nat := 0xF1400 + 16 * s + off
/-- Indices of the general region (R318). -/
def generalCounters : Nat := 786432

/- Offsets in the slot of a port (R319, R414, R451, R494, R530). -/
def cntRxFrames : Nat := 0
def cntRxBytes : Nat := 8
def cntTxFrames : Nat := 16
def cntTxBytes : Nat := 24
def cntPortDropFrames : Nat := 32
def cntPortDropBytes : Nat := 96
def cntLinkTransition : Nat := 160
def cntLol : Nat := 161
def cntSdGlitch : Nat := 162
def cntQuarantine : Nat := 163
def cntStepFail : Nat := 164
def cntStompTx : Nat := 165
def cntStompRx : Nat := 166
def cntRxHdrBad : Nat := 167
def cntRxStray : Nat := 168
def cntOsBad : Nat := 169
def cntOsUnknown : Nat := 170
def cntSideMismatch : Nat := 171
def cntParseDepth : Nat := 172
def cntLenConflict : Nat := 173
def cntLenTrailer : Nat := 174
def cntRxBadBlock : Nat := 175
def cntFecCorr : Nat := 176
def cntFecUncorr : Nat := 177
def cntFecHist : Nat := 178
def cntCtFrames : Nat := 192
def cntEcnMark : Nat := 193
def cntPauseRx : Nat := 194
def cntPauseTx : Nat := 195
def cntVeXoffRx : Nat := 196
def cntVeXoffTx : Nat := 197
def cntPauseWatchdog : Nat := 198
def cntEnergyHold : Nat := 199
def cntEnergyRelease : Nat := 200
def cntPtpCorr : Nat := 201

/- Offsets in the slot of a tenant (R319, R494). -/
def cntTenDrop : Nat := 0
def cntTenRxFrames : Nat := 64
def cntTenRxBytes : Nat := 65
def cntTenTxFrames : Nat := 66
def cntTenTxBytes : Nat := 67
def cntLearnQuota : Nat := 68
def cntTenMirCopies : Nat := 69
def cntTenMirBytes : Nat := 70
def cntEnergyNj : Nat := 71

/- Offsets in the slot of a slice (R319, R494). -/
def cntLpmRecirc : Nat := 0
def cntSliceWakeRet : Nat := 1
def cntSliceWakeOff : Nat := 2

/- Offsets in the slot of the die (R319, R374, R414, R451, R494, R530, R572, R625, R659). -/
def cntDieDropFrames : Nat := 0
def cntDieDropBytes : Nat := 64
def cntLearnDrop : Nat := 128
def cntMacMove : Nat := 129
def cntMacEvict : Nat := 130
def cntMacFull : Nat := 131
def cntMacStaticConflict : Nat := 132
def cntTblParity : Nat := 133
def cntTblShadow : Nat := 138
def cntCombDoubleFree : Nat := 141
def cntCombFreeNotOwner : Nat := 142
def cntCombListBad : Nat := 143
def cntCombReclaimed : Nat := 144
def cntSpillPages : Nat := 145
def cntReadbackPages : Nat := 146
def cntSpillWait : Nat := 147
def cntBridgeReplay : Nat := 148
def cntBridgeRetrain : Nat := 155
def cntCreditGrant : Nat := 162
def cntCreditReturn : Nat := 163
def cntPathRehash : Nat := 164
def cntMcPartial : Nat := 165
def cntMcResidue : Nat := 166
def cntMcResidueFull : Nat := 167
def cntCapWindows : Nat := 168
def cntThermalStep : Nat := 169
def cntBankPark : Nat := 170
def cntForcedSlot : Nat := 171
def cntTxtsOverflow : Nat := 172
def cntPpsInReject : Nat := 173
def cntSchedLate : Nat := 174
def cntEventLost : Nat := 175
def cntMemCe : Nat := 176
def cntMemUe : Nat := 184
def cntBusReplay : Nat := 192
def cntHaRenewTx : Nat := 193
def cntHaAnswerMiss : Nat := 194
def cntHaRenewRx : Nat := 195
def cntQueenEdgeReject : Nat := 196
def cntJournalTx : Nat := 197
def cntJournalApplied : Nat := 198
def cntPeerBad : Nat := 199

end Sys2Proof.Machine
end

