-- ==== Sys2Proof/Machine/State.lean ====
section
/-! DEFINITION. The state of the block: everything the spec gives the package, as plain data. Every field says, in its
comment: width or type | rule of spec/ | reset value | meaning. Times are counted in sixteenths of a grain tick
(80 ps, R506): 12,500 to the microsecond. An index that a list of (index, entry) pairs
does not list holds the reset entry. `State.reset` is the package right after a package reset, before PWR_OK rises. -/

namespace Sys2Proof.Machine

/-- Why the block stops with a fault. No meaning raises one: the spec gives every command of the table an effect. -/
inductive Fault where
  /-- Raised by no meaning. Safe: a stop where the device goes on. -/
  | noEffectStated
  deriving DecidableEq, Repr

/-- Why the block refuses a command. -/
inductive Refusal where
  /-- An arm of exec whose meaning is not modelled, rejected by its mnemonic. Safe. -/
  | notModelled (mnemonic : String)
  deriving DecidableEq, Repr

inductive Part where
  | km8200
  | km8400
  | km8800
  deriving DecidableEq, Repr

/-- PORT_STATUS.LINK (R91). -/
inductive Link where
  | down
  | seek
  | stepping
  | up
  | quarantine
  | test
  | disabled
  deriving DecidableEq, Repr

/-- Lane power states (R73). -/
inductive Power where
  | l0
  | l1
  | l2
  deriving DecidableEq, Repr

/-- Phases of a Spindle bring-up attempt (R57, R58). -/
inductive Phase where
  | idle
  | pll          -- rate switch to PLL lock
  | lock         -- CDR, block and codeword lock
  | train        -- equaliser training
  | qualify      -- qualification window
  | passed       -- own pass known, waiting for the far end's or for the step handshake
  | restartWait
  | l2Train      -- retraining at the current rate after an L2 exit (R78)
  | l2Check      -- check window after an L2 exit (R78)
  deriving DecidableEq, Repr

inductive Attempt where
  | base
  | step
  | fallback
  deriving DecidableEq, Repr

/-- How far an Ethernet port that is DOWN has come (R67, R68). -/
inductive EthPhase where
  | idle
  | autoneg      -- Clause 73 auto-negotiation, until an exchange finds the configured ability
  | training     -- link training of the PMD clause
  | pcs          -- PCS lock
  deriving DecidableEq, Repr

/-- PORT_CONFIG as stored (R90). MODE 0 also stands for a lane that was never configured. -/
structure PortConf where
  mode  : Nat := 0          -- 8 | R90 | 0 | MODE: 0 disabled, 1 Spindle link, 2 Ethernet
  width : Nat := 0          -- 8 | R90 | 0 (no lane belongs to a port never configured) | WIDTH in lanes
  rate  : Nat := 0          -- 8 | R90 | 0 | RATE: highest rate code, or PHY type code
  flags : Nat := 0          -- 8 | R90 | 0 | FLAGS: auto-negotiation, FEC off
  txInv : Nat := 0          -- 8 | R53 | 0 | transmit polarity inversion of each lane
  rxInv : Nat := 0          -- 8 | R53 | 0 | receive polarity inversion of each lane
  deriving DecidableEq, Repr

/-- A token bucket. Tokens are bytes in units of 1/6,250,000 byte, in which a rate in kb/s earns exactly
rate × ticks (R299, R458). -/
structure Bucket where
  tokens : Int := 0         -- exact | R298 | 0 | tokens held
  last   : Nat := 0         -- 64 | R299 | 0 | grain tick of the previous update
  deriving DecidableEq, Repr

/-- One tenant group of a port (R495). -/
structure Group where
  weight  : Nat := 1        -- 8 | R495 | 1 | WEIGHT
  minRate : Nat := 0        -- 32 | R495 | 0 | MIN_RATE, Mb/s
  maxRate : Nat := 0        -- 32 | R495 | 0 | MAX_RATE, Mb/s
  strict  : Nat := 0x80     -- 8 | R495 | 0x80 | STRICT
  classW  : List Nat := [1, 1, 1, 1, 1, 1, 1, 1]  -- 8 x 8 | R495 | 1 each | CLASS_WEIGHT
  minB    : Bucket := { tokens := 16384 * 6250000 }  -- bucket | R458 | full (DESIGN CHOICE, log 9) | minimum shaper
  maxB    : Bucket := { tokens := 16384 * 6250000 }  -- bucket | R458 | full (DESIGN CHOICE, log 9) | maximum shaper
  deficit : Int := 0        -- bytes | R460 | 0 | deficit of the group
  classD  : List Int := [0, 0, 0, 0, 0, 0, 0, 0]  -- bytes x 8 | R460 | 0 | deficit of each class
  classAt : Nat := 7        -- 3 | R460 | 7 | class visited last (DESIGN CHOICE, log 9)
  queues  : List (List Nat) := [[], [], [], [], [], [], [], []]  -- 8 queues | R455 | empty | waiting copies of each class, head first
  deriving DecidableEq, Repr

/-- Values that commands store against a lane and that every port with that lowest lane uses (R731). -/
structure PortSet where
  tcDefault : Nat := 0      -- 3 | R234 | 0 | TC_DEFAULT
  pcpMap : List Nat := [0, 1, 2, 3, 4, 5, 6, 7]  -- 8 x 3 | R234 | p to TCp | PCP_MAP
  actions : List Nat := [1, 1, 0, 2, 2, 0, 0]  -- 7 bytes | R211 | the defaults | action byte of CONFLICT, CSUM, DEPTH, FRAG, OPT, TRAILER, MISS
  ctEn : Bool := true       -- 1 | R415 | 1 | CT_EN
  fcMode : Nat := 0         -- 8 | R452 | 0 | FC_MODE
  lossless : Nat := 0       -- 8 | R452 | 0 | LOSSLESS
  rxMask : Nat := 0xFF      -- 8 | R452 | 0xFF | RX_MASK
  veXoffEn : Bool := false  -- 1 | R452 | 0 | VE_XOFF_EN
  hold : Nat := 65535       -- 16 | R452 | 65,535 | HOLD
  xoffTh : Nat := 1024      -- 32 | R452 | 1,024 | XOFF_TH
  xonTh : Nat := 512        -- 32 | R452 | 512 | XON_TH
  headroom : Nat := 0       -- 32 | R452 | 0 | HEADROOM
  veXoffOn : Nat := 4096    -- 32 | R452 | 4,096 | VE_XOFF_ON
  veXoffOff : Nat := 2048   -- 32 | R452 | 2,048 | VE_XOFF_OFF
  watchdog : Nat := 200     -- 16 | R452 | 200 | WATCHDOG, ms
  smac : List Byte := [0, 0, 0, 0, 0, 0]  -- 48 | R452 | 0 | SMAC
  wcRelease : Bool := true  -- 1 | R495 | 1 | WC_RELEASE
  overhead : Int := 20      -- 8 signed | R495 | 20 | OVERHEAD
  shapeRate : Nat := 0      -- 32 | R495 | 0 | SHAPE_RATE, Mb/s
  shapeBurst : Nat := 65536 -- 32 | R495 | 65,536 | SHAPE_BURST
  classMax : List Nat := [0, 0, 0, 0, 0, 0, 0, 0]  -- 8 x 16 | R495 | 0 | CLASS_MAX, 100 Mb/s
  groupMap : List (Nat × Nat) := []  -- 1,024 x 6 | R455 | every tenant to group 0 | tenant to group
  groups : List (Nat × Group) := []  -- 64 groups | R495 | reset groups | tenant groups, with their queues and deficits
  tcMode : Nat := 0         -- 2 | R531 | 0 | TC_MODE
  oneStep : Bool := false   -- 1 | R531 | 0 | ONE_STEP
  bcEn : Bool := false      -- 1 | R531 | 0 | BC_EN
  bcDomain : Nat := 0       -- 4 | R531 | 0 | BC_DOMAIN
  rxCorr : Int := 0         -- 32 signed | R531 | 0, then the configuration block (R684) | RX_CORR, ps
  txCorr : Int := 0         -- 32 signed | R531 | 0, then the configuration block (R684) | TX_CORR, ps
  peerDelay : Nat := 0      -- 32 | R531 | 0 | PEER_DELAY, ns
  ptpDomain : Nat := 0      -- 8 | R531 | 0 | PTP_DOMAIN
  deriving DecidableEq, Repr

/-- One lane. -/
structure Lane where
  sdRaw : Bool := false     -- 1 | R71 | 0 (DESIGN CHOICE, log 10) | signal detect before debounce
  sdSince : Option Nat := none  -- time | R71 | none | start of the debounce of a change
  sd : Bool := false        -- 1 | R71 | 0 (DESIGN CHOICE, log 10) | signal detect after debounce
  blockLock : Bool := false -- 1 | R57 | 0 (DESIGN CHOICE, log 10) | block lock
  lockAt : Nat := 0         -- time | R58 | 0 | when block lock was acquired
  cwLock : Bool := false    -- 1 | R123 | 0 (DESIGN CHOICE, log 10) | codeword lock
  cwBad : Nat := 0          -- 2 | R123 | 0 | consecutive uncorrectable codewords
  badRows : List Nat := []  -- rows | R70 | empty | rows of the invalid sync headers within the last 64 blocks
  helloAt : Option Nat := none  -- time | R60 | none | when the last valid HELLO arrived in this attempt
  hello : BitVec 40 := 0    -- 40 | R132 | 0 | content of the last valid HELLO
  helloRun : Nat := 0       -- count | R57 | 0 | consecutive identical valid HELLOs (R133)
  reqRun : Nat := 0         -- count | R57 | 0 | consecutive valid HELLOs with the same RATE_REQ
  cwGood : Nat := 0         -- count | R123 | 0 | consecutive correctable codewords while codeword lock is sought
  cwOffset : Nat := 0       -- 0-5439 | R123 | 0 (DESIGN CHOICE, log 56) | candidate codeword boundary, in bits
  resume : Option Nat := none  -- 4 | R142 | none | codewords since the far end left electrical idle, until lock is confirmed
  txScr : BitVec 58 := 0    -- 58 | R97 | 0 (DESIGN CHOICE, log 54) | S of the transmit scrambler
  rxScr : BitVec 58 := 0    -- 58 | R97 | 0 (DESIGN CHOICE, log 54) | S of the descrambler
  rxScrN : Nat := 0         -- 0-58 | R97 | 0 | payload bits since the descrambler started, up to 58
  ask : Option (Nat × Nat × Nat) := none  -- PRE MAIN POST | R134 | none | this end's own request, until it is answered
  coefReq : Option (Nat × Nat × Nat) := none  -- PRE MAIN POST | R134 | none | the far end's request being applied
  coefStatus : Nat := 0     -- 2 | R132 | 0 | COEF_STATUS this end reports
  tapPre : Int := 0         -- steps | R134 | 0 (DESIGN CHOICE, log 10) | pre-cursor tap
  tapMain : Int := 0        -- steps | R134 | 0 (DESIGN CHOICE, log 10) | main tap
  tapPost : Int := 0        -- steps | R134 | 0 (DESIGN CHOICE, log 10) | post-cursor tap
  prbsLock : Bool := false  -- 1 | R82 | 0 | the PRBS31 checker is locked
  prbsErrors : Nat := 0     -- 64 saturating | R82 | 0 | bit errors since lock
  prbsAt : Nat := 0         -- time | R93 | 0 | when the checker locked
  prbsGen : BitVec 31 := -1 -- 31 | R82 | all ones (DESIGN CHOICE, log 56) | last 31 bits of the PRBS31 generator
  prbsRef : BitVec 31 := 0  -- 31 | R82 | 0 (DESIGN CHOICE, log 56) | last 31 bits of a locked checker's own sequence
  fecAligned : Bool := false  -- 1 | R69 | 0 (DESIGN CHOICE, log 10) | the FEC of an Ethernet port reports alignment on the lane
  txInv : Bool := false     -- 1 | R53 | 0 | transmit inversion in effect
  rxInv : Bool := false     -- 1 | R53 | 0 | receive inversion in effect
  cfgPre : Int := 0         -- 8 signed | R667 | 0 | user equaliser correction PRE
  cfgMain : Int := 0        -- 8 signed | R667 | 0 | user equaliser correction MAIN
  cfgPost : Int := 0        -- 8 signed | R667 | 0 | user equaliser correction POST
  deriving DecidableEq, Repr

inductive RxSt where
  | out
  | inFrame
  | discard
  deriving DecidableEq, Repr

/-- A frame in transmission on a port. -/
structure Tx where
  copy : Nat                -- id | R461 | - | the copy sent
  start : Nat               -- time | R461 | - | time of its selection
  point : Int               -- time | R505 | - | its transmit timestamp point at the medium boundary, in sixteenths of a tick since the grain counters started
  ns : List Nat             -- 16 times | R503 | - | the same point in whole nanoseconds of every domain
  head : Nat                -- 56 | R108 | - | start header of a Spindle link without HCRC
  seq : Nat := 0            -- 32 | R312 | - | the session's sequence number that a GRE copy carries
  tick : Nat := 0           -- 64 | R458 | - | grain tick of its start
  cost : Nat := 0           -- bytes | R460 | - | B by which its selection lowered the deficits
  deriving DecidableEq, Repr

/-- An ordered set that a port decided to send while its transmitter was off (R73, R131). -/
inductive Owed where
  | pause (mask : Nat)
  | veXoff (ve : Nat) (xoff : Bool)
  deriving DecidableEq, Repr

/-- One port, named by the global ID of its lowest lane. -/
structure Port where
  conf : PortConf := {}     -- record | R91 | MODE 0 | configuration as stored
  run : PortConf := {}      -- record | R85, R91 | MODE 0 | configuration that the lanes run under: that of the last bring-up
  link : Link := .disabled  -- 3 | R91 | DISABLED | LINK
  rate : Nat := 0           -- 8 | R91 | 0 | current rate code, or the PHY type while `run` is an Ethernet configuration
  restAt : Nat := 0         -- time | R485 | 0 | since when it has been in L2, DOWN or disabled, while it is
  ceiling : Option Nat := none  -- 8 | R63 | none | ceiling rate code
  failRate : Nat := 0       -- 3 | R61 | 0 | rate code of the last failed step
  failLane : Nat := 0       -- 10 | R61 | 0 | failing lane of the last failed step
  power : Power := .l2      -- 2 | R51 | L2 | power state of its lanes
  phase : Phase := .idle    -- enum | R58 | idle | bring-up phase
  attempt : Attempt := .base  -- enum | R57 | base | attempt in progress
  attRate : Nat := 0        -- 3 | R57 | 0 | rate code of the attempt
  attAt : Nat := 0          -- time | R58 | 0 | start of the attempt
  phaseAt : Nat := 0        -- time | R58 | 0 | start of the phase
  agreed : Bool := false    -- 1 | R57 | 0 | agreement reached (step 2)
  helloSent : Nat := 0      -- count | R57 | 0 | HELLOs sent with the current request
  helloNext : Nat := 0      -- time | R58 | 0 | when the next HELLO is due
  trainDone : Bool := false -- 1 | R132 | 0 | own TRAIN_DONE
  qual : Nat := 0           -- 2 | R132 | 0 | own QUAL
  failOwed : Option Nat := none  -- lane | R57, R60 | none | lane on which qualification failed, until the next HELLO has reported it
  rateReq : Nat := 0        -- 3 | R132 | 0 | own RATE_REQ
  transitions : List Nat := []  -- 9 times | R84 | empty | latest link transitions, newest first
  lastTrans : Option Nat := none  -- time | R87 | none | last link transition
  holdLevel : Nat := 0      -- 3 | R91 | 0 | level of the next hold-off
  quarLevel : Nat := 0      -- 3 | R88 | 0 | level of the present quarantine
  quarUntil : Nat := 0      -- time | R88 | 0 | end of the hold-off
  quarEnd : Option Nat := none  -- time | R87 | none | end of the last quarantine
  testRate : Nat := 0       -- 3 | R93 | 0 | lane rate code of test mode
  ethPhase : EthPhase := .idle  -- enum | R68 | idle | auto-negotiation, link training or PCS lock
  anFailAt : Option Nat := none -- time | R67 | none | last EV_PORT_AN_FAIL
  anMiss : Bool := false    -- 1 | R67 | 0 | an exchange since it found no common ability
  pcsOk : Bool := false     -- 1 | R69 | 0 (DESIGN CHOICE, log 10) | the PCS reports link status OK
  rx : RxSt := .out         -- 2 | R114 | OUT | receive frame state
  rxFrame : Option Nat := none  -- id | R114 | none | frame being received
  macHold : Option ((Int × List Nat) × List Byte) := none  -- record | R427 | none | an Ethernet frame in the MAC that is or may be a MAC control frame: its receive timestamp and its bytes so far
  rxRow : Nat := 0          -- count | R98 | 0 | rows received
  rxBlk : Nat := 0          -- count | R98 | 0 | blocks of the current row received
  roleSeen : Bool := false  -- 1 | R139 | 0 | a ROLE arrived since the link came UP
  farRole : Nat := 0        -- 2 | R136 | 0 | ROLE of the far end
  farQuiet : Nat := 0       -- 2 | R141 | 0 | QUIET of the far end
  farEpoch : Nat := 0       -- 16 | R136 | 0 | EPOCH of the far end
  farRoleAt : Option Nat := none -- time | R644 | none | last ROLE received
  quiet : Nat := 0          -- 2 | R138 | 0 | QUIET this end announces
  txBlk : Nat := 0          -- 3 | R98 | 0 (DESIGN CHOICE, log 56) | lane index that the next block of the transmit stream took at txBlkAt
  txBlkAt : Nat := 0        -- time | R98 | 0 | when that was; IDLE blocks have followed since
  txFrom : Nat := 0         -- time | R142 | 0 | when the IDLE blocks after electrical idle have been sent
  owed : List Owed := []    -- ordered sets | R73, R131 | empty | those decided in L2 that wait for the transmitter, in the order of decision
  roleLeft : Nat := 0       -- 3 | R138 | 0 | repeats of the changed ROLE still to send
  roleAt : Nat := 0         -- time | R138 | 0 | last ROLE sent
  upAt : Nat := 0           -- time | R644 | 0 | when the link last came UP
  l2Ask : Option Nat := none  -- time | R77 | none | when QUIET L2 was announced
  wakeAt : Option Nat := none  -- time | R78 | none | start of an L2 exit
  lastTx : Nat := 0         -- time | R483 | 0 | end of the last frame transmitted
  lastWait : Nat := 0       -- time | R483 | 0 | last moment at which a frame waited in the scheduler
  lastRx : Nat := 0         -- time | R483 | 0 | last frame received
  rxPaused : List (Nat × Nat) := []  -- 8 x time | R144 | empty | class paused by the far end, until
  pausedAt : List (Nat × Nat) := []  -- 8 x time | R440, R520 | empty | since when each pause of rxPaused has lasted
  rxXoff : List ((Nat × Nat) × Nat) := []  -- pairs x time | R149 | empty | (VE, class) in XOFF from the far end, until
  xoffAt : List ((Nat × Nat) × Nat) := []  -- pairs x time | R440, R520 | empty | since when each XOFF of rxXoff has lasted
  txPaused : Nat := 0       -- 8 | R434 | 0 | classes the device pauses
  txPauseAt : Nat := 0      -- time | R435 | 0 | last pause sent
  txXoff : List (Nat × Nat) := []  -- VE x time | R437 | empty | VEs the device holds in XOFF, and the last VE_XOFF
  stall : List (Nat × Nat) := []  -- 8 x time | R438 | empty | start of the stall timer of a class
  veStall : List ((Nat × Nat) × Nat) := []  -- pairs x time | R438 | empty | start of the stall timer of a (VE, class) pair
  ignore : List (Nat × Nat) := []  -- 8 x time | R439 | empty | class in PAUSE_IGNORE, end of its period
  veIgnore : List ((Nat × Nat) × Nat) := []  -- pairs x time | R439 | empty | pair in PAUSE_IGNORE, end of its period
  spoofAt : Option Nat := none  -- time | R164 | none | last EV_VE_SPOOF
  spoofN : Nat := 0         -- 32 | R164 | 0 | frames dropped as DR_VE_SPOOF since it
  spoofVe : Nat := 0        -- 12 | R164 | 0 | VE of the first of them
  tx : Option Tx := none    -- record | R461 | none | frame in transmission
  next : Option (Nat × Nat) := none -- key, bytes | R461 | none | copy selected to start next, and the B its selection took
  holdList : List Nat := [] -- copies | R432 | empty | hold list, oldest first
  holdTick : Nat := 0       -- count | R474 | 0 | last multiple of 1 us at which hold times were judged
  portB : Bucket := { tokens := 65536 * 6250000 }  -- bucket | R458 | full (DESIGN CHOICE, log 9) | port shaper
  classB : List Bucket := List.replicate 8 { tokens := 16384 * 6250000 }  -- 8 buckets | R458 | full (DESIGN CHOICE, log 9) | class shapers
  groupAt : Nat := 63       -- 6 | R460 | 63 | group visited last (DESIGN CHOICE, log 9)
  sent : Nat := 0           -- cells | R382 | 0 | cells of frames sent under credits and not yet transmitted
  creditStop : Bool := false  -- 1 | R614 | 0 | no credit until the recount
  creditAt : Nat × Nat := (0, 0)  -- pair | R384 | 0 (DESIGN CHOICE, log 8) | (class below 7, ingress die) served last
  credit7 : Nat := 0        -- 3 | R384 | 0 (DESIGN CHOICE, log 8) | ingress die served last in TC7
  set : PortSet := {}       -- record | R731 | reset values | values stored against the lane
  deriving DecidableEq, Repr

/-- Endpoint table entry (R161). The reset entry is invalid. -/
structure VeEntry where
  valid : Bool := false     -- 1 | R161 | 0 | VALID
  tenant : Nat := 0         -- 10 | R161 | 0 | TENANT
  port : Nat := 0           -- 10 | R161 | 0 | PORT
  bd : Nat := 0             -- 14 | R161 | 0 | BD
  vrf : Nat := 0            -- 10 | R161 | 0 | VRF
  polEn : Bool := false     -- 1 | R161 | 0 | POL_EN
  policer : Nat := 0        -- 14 | R161 | 0 | POLICER
  mirIn : Option Nat := none  -- 1 + 4 | R161 | none | ingress mirror session, when enabled
  mirEg : Option Nat := none  -- 1 + 4 | R161 | none | egress mirror session, when enabled
  mirInS : Nat := 0         -- 4 | R161 | 0 | ingress session as stored
  mirEgS : Nat := 0         -- 4 | R161 | 0 | egress session as stored
  domain : Nat := 0         -- 4 | R161 | 0 | TIME_DOMAIN
  learn : Bool := false     -- 1 | R161 | 0 | LEARN
  acct : Nat := 0           -- 10 | R161 | 0 | ENERGY_ACCT
  cellCap : Nat := 0        -- 32 | R161 | 0 | CELL_CAP
  deriving DecidableEq, Repr

/-- Tenant record (R192). -/
structure Tenant where
  valid : Bool := false     -- 1 | R159 | 0 | VALID
  comb : Nat := 0           -- 32 | R159 | 0 | COMB_QUOTA
  store : Nat := 0          -- 32 | R159 | 0 | STORE_QUOTA
  mac : Nat := 0            -- 32 | R159 | 0 | MAC_QUOTA
  puntRate : Nat := 0       -- 32 | R159 | 0 | PUNT_RATE
  puntBurst : Nat := 0      -- 16 | R159 | 0 | PUNT_BURST
  mirRate : Nat := 0        -- 32 | R159 | 0 | MIRROR_RATE
  energy : Nat := 0         -- 32 | R159 | 0 | ENERGY_QUOTA
  deriving DecidableEq, Repr

/-- Bridge-domain record (R239). -/
structure Bd where
  floodEn : Bool := false   -- 1 | R239 | 0 | FLOOD_EN
  group : Nat := 0          -- 16 | R239 | 0 | FLOOD_GROUP
  routeEn : Bool := false   -- 1 | R239 | 0 | ROUTE_EN
  mac : Nat := 0            -- 48 | R239 | 0 | ROUTER_MAC, first byte on the wire highest
  deriving DecidableEq, Repr

/-- Key of a route: VRF, family (4 or 6), length, prefix as a number (R294). -/
structure RouteKey where
  vrf : Nat                 -- 10 | R294 | - | VRF of the route
  family : Nat              -- 8 | R294 | - | 4 or 6
  len : Nat                 -- 8 | R294 | - | prefix length
  prefixN : Nat             -- 128 | R294 | - | prefix as a number
  deriving DecidableEq, Repr

/-- What a route gives (R271). -/
structure NextHop where
  drop : Bool := false      -- 1 | R288 | 0 | NH_KIND DROP
  ve : Nat := 0             -- 12 | R288 | 0 | NH_VE
  mac : Nat := 0            -- 48 | R288 | 0 | NH_MAC
  deriving DecidableEq, Repr

/-- Multicast group record with its members in the order given (R442). -/
structure McGroup where
  valid : Bool := false     -- 1 | R442 | 0 | VALID
  redCopy : Bool := false   -- 1 | R442 | 0 | RED_COPY
  tenantOnly : Bool := false  -- 1 | R442 | 0 | TENANT_ONLY
  tenant : Nat := 0         -- 10 | R442 | 0 | TENANT
  cntEn : Bool := false     -- 1 | R442 | 0 | CNT_EN
  counter : Nat := 0        -- 20 | R442 | 0 | COUNTER
  members : List (Nat × Nat) := []  -- VE x die | R442 | empty | members and the die each was placed on
  deriving DecidableEq, Repr

/-- Mirror session (R327). -/
structure Mirror where
  enable : Bool := false    -- 1 | R327 | 0 | ENABLE
  kind : Nat := 0           -- 8 | R327 | 0 | DEST_KIND
  vlan : Bool := false      -- 1 | R327 | 0 | VLAN
  seqEn : Bool := false     -- 1 | R327 | 0 | SEQ
  tc : Nat := 0             -- 3 | R327 | 0 | TC
  trunc : Nat := 0          -- 16 | R327 | 0 | TRUNC
  port : Nat := 0           -- 16 | R327 | 0 | DEST_PORT
  tapDie : Nat := 0         -- 8 | R327 | 0 | TAP_DIE
  tapVf : Nat := 0          -- 8 | R327 | 0 | TAP_VF
  proto : Nat := 0          -- 16 | R327 | 0 | GRE_PROTO
  dmac : List Byte := []    -- 48 | R327 | 0 | OUTER_DMAC, wire order
  smac : List Byte := []    -- 48 | R327 | 0 | OUTER_SMAC, wire order
  tci : Nat := 0            -- 16 | R327 | 0 | OUTER_TCI
  dscp : Nat := 0           -- 6 | R327 | 0 | DSCP
  ttl : Nat := 0            -- 8 | R327 | 0 | TTL
  sip : List Byte := []     -- 32 | R327 | 0 | SIP, wire order
  dip : List Byte := []     -- 32 | R327 | 0 | DIP, wire order
  deriving DecidableEq, Repr

/-- Buffer profile (R375). -/
structure BufProfile where
  alpha : Nat := 6          -- 4 | R375 | 6 | ALPHA
  minCells : Nat := 0       -- 32 | R375 | 0 | MIN_CELLS
  spillEn : Bool := false   -- 1 | R375 | 0 | SPILL_EN
  spillOn : Nat := 16384    -- 32 | R375 | 16,384 | SPILL_ON
  spillOff : Nat := 8192    -- 32 | R375 | 8,192 | SPILL_OFF
  readTh : Nat := 512       -- 16 | R375 | 512 | READBACK_TH
  storeMax : Nat := 0       -- 32 | R375 | 0 | STORE_MAX
  deriving DecidableEq, Repr

/-- WRED profile (R452). -/
structure Wred where
  enable : Bool := false    -- 1 | R419 | 0 | ENABLE
  ecn : Bool := false       -- 1 | R452 | 0 | ECN_EN
  weight : Nat := 0         -- 4 | R452 | 0 | WEIGHT
  minC : List Nat := [0, 0, 0]   -- 3 x 32 | R452 | 0 | MIN of green, yellow, red
  maxC : List Nat := [0, 0, 0]   -- 3 x 32 | R452 | 0 | MAX
  pmax : List Nat := [0, 0, 0]   -- 3 x 16 | R452 | 0 | PMAX
  deriving DecidableEq, Repr

/-- User-defined header slot (R234). -/
structure Udf where
  mode : Nat := 0           -- 8 | R234 | 0 | MODE
  matchKind : Nat := 0      -- 8 | R234 | 0 | MATCH_KIND
  anchor : Nat := 0         -- 8 | R234 | 0 | ANCHOR
  matchValue : Nat := 0     -- 16 | R234 | 0 | MATCH_VALUE
  lenFixed : Nat := 0       -- 8 | R234 | 0 | LEN_FIXED
  lenOff : Nat := 0         -- 8 | R234 | 0 | LEN_OFF
  lenMask : Nat := 0        -- 8 | R234 | 0 | LEN_MASK
  lenShift : Nat := 0       -- 8 | R234 | 0 | LEN_SHIFT
  lenMul : Nat := 0         -- 8 | R234 | 0 | LEN_MUL
  lenAdd : Nat := 0         -- 8 | R234 | 0 | LEN_ADD
  nextKind : Nat := 0       -- 8 | R234 | 0 | NEXT_KIND
  nextOff : Nat := 0        -- 8 | R234 | 0 | NEXT_OFF
  capOff : Nat := 0         -- 8 | R234 | 0 | CAP_OFF
  deriving DecidableEq, Repr

/-- The package-wide tables of which every die holds a copy and d0 the master (R22, R23, R173). -/
structure Tables where
  ves : List (Nat × VeEntry) := []      -- 4,096 entries | R159 | every entry invalid | endpoint table
  tenants : List (Nat × Tenant) := []   -- 1,024 records | R159 | every record invalid | tenant records
  bds : List (Nat × Bd) := []           -- 16,384 records | R239 | 0 | bridge-domain records
  routes : List (RouteKey × NextHop) := []  -- routes | R276 | empty | installed routes
  routeLens : List (RouteKey × Nat) := []   -- routes | R277 | empty | stored length of every expanded route
  compiles : Nat := 0                   -- model | R276 | 0 (DESIGN CHOICE, log 16) | compilations so far, which number the free choices
  groups : List (Nat × McGroup) := []   -- 65,536 records | R442 | every group invalid | multicast groups and members
  mirrors : List (Nat × Mirror) := []   -- 16 sessions | R305 | disabled (DESIGN CHOICE, log 8) | mirror sessions
  bufs : List (Nat × BufProfile) := []  -- 32 profiles | R375 | the reset profile | buffer profiles
  tenAlpha : List (Nat × Nat) := []     -- 1,024 x 4 | R375 | 15 | ALPHA_T
  udfs : List (Nat × Udf) := []         -- 4 slots | R237 | disabled (DESIGN CHOICE, log 8) | user-defined header slots
  vxlanPort : Nat := 4789               -- 16 | R197 | 4,789 | VXLAN_PORT
  genevePort : Nat := 6081              -- 16 | R197 | 6,081 | GENEVE_PORT
  puntHome : List (Nat × Nat) := []     -- 8 x 3 | R231 | the die itself | PUNT_HOME
  bufBind : List ((Bool × Nat × Nat) × Nat) := []   -- per VOQ | R375 | 0 | buffer profile of the VOQs towards (MC, target, class)
  wredBind : List ((Bool × Nat × Nat) × Nat) := []  -- per VOQ | R419 | 0 | WRED profile of the VOQs towards (MC, target, class)
  deriving DecidableEq, Repr

/-- MAC table entry (R249). Only valid entries are listed. -/
structure MacEntry where
  static : Bool := false    -- 1 | R249 | - | STATIC
  key : Nat := 0            -- 62 | R249 | - | BD in [61:48], MAC in [47:0], first byte on the wire highest
  group : Bool := false     -- 1 | R249 | - | DEST_KIND
  dest : Nat := 0           -- 16 | R249 | - | DEST
  tenant : Nat := 0         -- 10 | R249 | - | TENANT
  act : Bool := false       -- 1 | R249 | - | ACT
  age : Nat := 0            -- 2 | R249 | - | AGE
  deriving DecidableEq, Repr

/-- A queued learn event (R252). -/
structure Learn where
  key : Nat                 -- 62 | R252 | - | key
  ve : Nat                  -- 12 | R252 | - | source VE
  tenant : Nat              -- 10 | R252 | - | its tenant
  move : Bool               -- 1 | R252 | - | MOVE or NEW
  at' : Nat                 -- time | R254 | - | when it was queued
  deriving DecidableEq, Repr

/-- Policer (R298, R327). -/
structure Policer where
  mode : Nat := 0           -- 1 | R304 | 0 | MODE
  redDrop : Bool := false   -- 1 | R304 | 0 | RED_DROP
  adj : Int := 0            -- 8 signed | R327 | 0 | BYTE_ADJ
  cir : Nat := 0            -- 32 | R304 | 0 | CIR
  pir : Nat := 0            -- 32 | R304 | 0 | PIR or EIR
  cbs : Nat := 0            -- 32 | R304 | 0 | CBS
  pbs : Nat := 0            -- 32 | R304 | 0 | PBS or EBS
  counter : Nat := 0        -- 20 | R327 | 0 | COUNTER
  cntEn : Bool := false     -- 1 | R327 | 0 | CNT_EN
  tc : Bucket := {}         -- bucket | R298 | 0 | committed bucket
  t2 : Bucket := {}         -- bucket | R298 | 0 | second bucket
  deriving DecidableEq, Repr

/-- Classifier rule (R218); only valid entries are listed. -/
structure Rule where
  key : Nat                 -- 480 | R218 | - | KEY
  mask : Nat                -- 480 | R218 | - | MASK
  action : Nat              -- 64 | R218 | - | ACTION
  deriving DecidableEq, Repr

/-- What waits in the indirect write path of a die (R585): a write of IND_DATA, of IND_ADDR or of IND_CTRL. -/
inductive IndW where
  | data (value : Word)
  | addr (value : Nat)
  | ctrl (value : Nat)
  deriving DecidableEq, Repr

/-- Command and completion ring pair (R539, R540). -/
structure Ring where
  cmdBase : Nat := 0        -- 64 | R587 | 0 | CMD_BASE
  cplBase : Nat := 0        -- 64 | R587 | 0 | CPL_BASE
  enable : Bool := false    -- 1 | R587 | 0 | ENABLE
  vector : Nat := 0         -- 5 | R587 | 0 | VECTOR
  prod : Nat := 0           -- 16 | R540 | 0 | PROD
  fetch : Nat := 0          -- 16 | R540 | 0 | FETCH
  write : Nat := 0          -- 16 | R540 | 0 | completion write count
  cons : Nat := 0           -- 16 | R540 | 0 | CONS
  full : Bool := false      -- 1 | R580 | 0 | RING_FLAGS.FULL
  fullAt : Option Nat := none  -- time | R17 | none | when hardware last set FULL
  epoch : Nat := 0          -- model | R541 | 0 | enables so far, so that a command fetched before a disable gets no completion (DESIGN CHOICE, log 12)
  deriving DecidableEq, Repr

/-- Event ring (R539, R571). -/
structure EvtRing where
  base : Nat := 0           -- 64 | R587 | 0 | EVT_BASE
  enable : Bool := false    -- 1 | R587 | 0 | ENABLE
  vector : Nat := 0         -- 5 | R587 | 0 | VECTOR
  write : Nat := 0          -- 16 | R580 | 0 | WRITE
  cons : Nat := 0           -- 16 | R580 | 0 | CONS
  deriving DecidableEq, Repr

/-- An MSI-X vector with its coalescing register (R588, R589). -/
structure Vec where
  time : Nat := 0           -- 16 | R580 | 0 | INT_COAL.TIME, us
  count : Nat := 1          -- 8 | R580 | 1 | INT_COAL.COUNT
  p : Nat := 0              -- count | R588 | 0 | pending count P
  since : Nat := 0          -- time | R589 | 0 | when P rose from 0
  lastAt : Option Nat := none  -- time | R589 | none | last message
  masked : Bool := true     -- 1 | R589 | 1 (PRESUMED, PCIe; log 11) | masked in the MSI-X table
  due : Bool := false       -- 1 | R589 | 0 | a message waits: the pending bit, or the 1 us spacing
  addr : Nat := 0           -- 64 | R580 | 0 (PRESUMED, PCIe; log 11) | MSI-X message address
  data : Nat := 0           -- 32 | R580 | 0 (PRESUMED, PCIe; log 11) | MSI-X message data
  deriving DecidableEq, Repr

/-- A punt or tap ring (R227, R592). -/
structure PuntRing where
  enable : Bool := false    -- 1 | R238 | 0 | ENABLED
  log2 : Nat := 8           -- 8 | R234 | 8 (DESIGN CHOICE, log 8) | LOG2_ENTRIES
  tenant : Nat := 0         -- 10 | R327 | 0 (DESIGN CHOICE, log 8) | TAP_TENANT of a tap ring
  cplBase : Nat := 0        -- 64 | R234 | 0 (DESIGN CHOICE, log 8) | COMPL_BASE
  poolBase : List Nat := [0, 0, 0]  -- 3 x 64 | R234 | 0 (DESIGN CHOICE, log 8) | POOL_BASE
  tail : List Nat := [0, 0, 0]  -- 3 x 32 | R592 | 0 | POOL_TAIL
  taken : List Nat := [0, 0, 0]  -- 3 x 32 | R593 | 0 | free-ring entries taken by the device
  cons : Nat := 0           -- 32 | R592 | 0 | CPL_CONS
  write : Nat := 0          -- 32 | R592 | 0 | CPL_WRITE
  overrun : Bool := false   -- 1 | R592 | 0 | OVERRUN
  overrunAt : Option Nat := none  -- time | R17 | none | when hardware last set OVERRUN
  deriving DecidableEq, Repr

/-- A cell position of a chain: in the comb, or in a page of the deep store. -/
inductive Loc where
  | cell (c : Nat)
  | page (p : Nat)
  deriving DecidableEq, Repr

/-- Link word of a HELD cell, as far as a chain does not give it (R335). -/
structure Held where
  cell : Nat                -- 20 | R336 | - | the cell
  pool : Nat                -- 16 | R362 | - | the pool it is counted in
  deriving DecidableEq, Repr

/-- State of a comb bank (R481). -/
inductive Bank where
  | on
  | closing
  | off
  deriving DecidableEq, Repr

/-- The comb of a die. -/
structure Comb where
  free : List (Nat × Nat) := [(0, 196608)]  -- 196,608 links | R337 | all cells in order (DESIGN CHOICE, log 8) | free list as runs (first cell, cells), head first
  held : List Held := []    -- link words | R335 | empty | cells with STATE HELD and their POOL
  banks : List Bank := List.replicate 12 .on  -- 12 | R481 | ON | comb banks
  bankLog : List Nat := []  -- banks | R488 | empty | banks parked, latest first
  retired : List Nat := []  -- at most 48 of 3,072 groups | R622 | empty | retired row groups
  egressPool : Nat := 16384 -- 32 | R341 | 16,384 | EGRESS_POOL
  requests : List (Nat × Nat × Nat) := []  -- requests | R346 | empty | (slice, or 4 for the Keeper, frame, cells) waiting
  rot : Nat := 0            -- 0-4 | R347 | 0 (DESIGN CHOICE, log 8) | member at which the rotation starts
  readWait : Option (VoqKey × Nat × List Nat) := none  -- record | R366 | none | pending readback: VOQ, page, cells held
  audit : Bool := false     -- 1 | R340 | 0 | an audit is due
  listBroken : Bool := false  -- 1 | R613 | 0 | a free-list rebuild is due
  refusals : Nat := 0       -- 32 | R340 | 0 | refusals since the last EV_COMB_FREE_REFUSED
  refAt : Option Nat := none  -- time | R340 | none | last EV_COMB_FREE_REFUSED
  highSince : Option Nat := none  -- time | R487 | none | since when S has been at or above 81,920
  bankOffAt : Option Nat := none  -- time | R487 | none | when the last bank reached OFF
  bankWakeAt : Option Nat := none  -- time | R488 | none | last bank wake
  deriving DecidableEq, Repr

/-- Kinds of frame records (R455, R442, R305). -/
inductive FKind where
  | received                -- a frame that arrived on a port
  | mirror (session : Nat) (egress : Bool)  -- a mirror copy, with its own bytes
  | keeper                  -- a frame that the Keeper sends on its own behalf (R455)
  | copyHost                -- a copy made by COPY_HOST (R220); it holds no cells of its own (DESIGN CHOICE, log 17)
  deriving DecidableEq, Repr

/-- Where step 5 sends a frame. -/
inductive Dest where
  | none
  | ve (v : Nat)
  | group (g : Nat)
  | port                    -- a mirror copy for the session's port
  | tap                     -- a mirror copy for the session's tap ring
  deriving DecidableEq, Repr

/-- How far a frame has come. -/
inductive Stage where
  | ingress                 -- in the ingress queue of its slice (R25)
  | lookup                  -- waiting for another LPM pass (R275)
  | police                  -- waiting for its last byte at step 6 (R299)
  | step8                   -- its decisions are made and it waits for admission
  | admitted                -- enqueued at step 8
  | slow                    -- on the slow path, waiting for its last byte or its turn
  | gone                    -- dropped; kept until its last byte has arrived
  deriving DecidableEq, Repr

/-- Who returns an admitted chain (R351). -/
inductive Owner where
  | dequeue                 -- the final egress dequeue
  | replication             -- the replication engine
  | slowPath                -- punt DMA or Keeper forward
  deriving DecidableEq, Repr

/-- What the parser and the classifier found (R197 to R217), kept in the frame's descriptor. -/
structure Parsed where
  ktype : Nat := 0          -- 4 | R216 | - | KTYPE
  pflags : Nat := 0         -- 16 | R216 | - | PFLAGS
  key : Nat := 0            -- 480 | R216 | - | classifier key
  l3 : Nat := 0             -- bytes | R217 | - | offset of the outermost IP header
  tailBad : List (Nat × Nat) := []  -- checks | R204 | - | tail checks: (kind 0 conflict if present bytes below limit, 1 trailer if above; limit)
  ptp : Option Nat := none  -- bytes | R513 | - | offset of an event message outside any tunnel
  ptpUdp : Option Nat := none  -- bytes | R513 | - | offset of its UDP header
  dst4 : Nat := 0           -- address | R244 | - | destination address of the outermost IP header
  flow : List Byte := []    -- bytes | R396 | - | the flow key after its first five bytes
  deriving DecidableEq, Repr

/-- The record of one frame (or mirror copy) inside the device: its bytes and its descriptor. -/
structure Frame where
  id : Nat := 0             -- model | R351 | - | name of the record
  kind : FKind := .received -- enum | R305 | - | kind of record
  orig : Nat := 0           -- id | R311 | - | frame that a mirror copy was made from
  bytes : List Byte := []   -- bytes | R336 | - | bytes received so far, FCS included
  len : Option Nat := none  -- 14 | R103 | - | L, once the last byte has arrived
  port : Nat := 0           -- 10 | R216 | - | arriving port
  die : Nat := 0            -- 3 | R22 | - | ingress die
  ve : Nat := 0             -- 12 | R162 | - | source VE
  src : VeEntry := {}       -- record | R166 | - | source VE's entry as read at step 3
  passed3 : Bool := false   -- 1 | R166 | - | the frame passed step 3
  tc : Nat := 0             -- 3 | R215 | - | class
  tsReq : Bool := false     -- 1 | R508 | - | a transmit timestamp is requested
  tsId : Nat := 0           -- 16 | R508 | - | TS_ID
  rxAt : Int := 0           -- time | R505 | - | receive timestamp point at the medium boundary, since the grain counters started
  rxNs : List Nat := []     -- 16 x 64 | R506 | - | whole nanoseconds of the receive timestamp in every domain
  good : Bool := false      -- 1 | R734 | - | the checks at the frame's end have passed
  endAt : Nat := 0          -- time | R230 | - | when the last byte arrived
  acts : List Nat := []     -- 7 bytes | R236 | - | the port's failure actions as step 4 read them
  charged : Option (Nat × Nat × Nat) := none  -- VE tenant cap | R175 | - | charged VE, charged tenant and the CELL_CAP carried
  paid : Nat := 0           -- cells | R733 | - | cells of the chain charged so far
  acct : Nat := 0           -- 10 | R462 | - | energy account
  stage : Stage := .ingress -- enum | R35 | - | stage reached
  chain : List Loc := []    -- cells | R351 | - | ingress chain in order
  owner : Option Owner := none  -- enum | R351 | - | owner of the chain in the descriptor; none while the chain is open (R350)
  asked : Nat := 0          -- cells | R733 | - | cells requested so far
  held : Option (Nat × Nat) := none  -- reason code | R733 | - | a refusal held until steps 4 to 6 have decided: drop reason, stomp code
  bad : Option (Nat × Nat) := none  -- reason code | R403 | - | cause found after admission: drop reason, Spindle stomp reason
  parsed : Parsed := {}     -- record | R200 | - | parse result
  rule : Option Nat := none -- 14 | R218 | - | winning rule
  ruleCnt : Option Nat := none  -- 20 | R221 | - | COUNTER of the winning rule, when CNT_EN
  policer : Option Nat := none  -- 14 | R297 | - | policer
  colour : Nat := 0         -- 2 | R303 | - | 0 green, 1 yellow, 2 red
  dest : Dest := .none      -- enum | R242 | - | destination
  eg : VeEntry := {}        -- record | R168 | - | destination VE's entry as read at step 5
  egPort : Nat := 0         -- 10 | R167 | - | egress port
  route : Option (Nat × Nat) := none  -- MACs | R246 | - | NH_MAC and the source MAC of the rewrite
  lpmLeft : List (Option (Nat × NextHop)) := []  -- probes | R274, R276 | - | probes of the candidate lengths not yet made: the stored entry, as it stood at the first pass
  passes : Nat := 0         -- count | R463 | - | passes through the lookup stage
  mirIn : Option Nat := none  -- 4 | R306 | - | ingress mirror session
  mirSes : Mirror := {}     -- record | R305 | - | session of a mirror copy as it stood when the copy began
  mirVe : Nat := 0          -- 12 | R306 | - | selecting VE of a mirror copy
  mirTen : Nat := 0         -- 10 | R313 | - | selecting VE's tenant
  mirDom : Nat := 0         -- 4 | R313 | - | time domain of the mirror timestamp
  mirPort : Nat := 0        -- 10 | R313 | - | arriving or transmitting port of the mirrored frame
  mirTc : Nat := 0          -- 3 | R313 | - | class of the mirrored frame
  mirColour : Nat := 0      -- 2 | R313 | - | colour of the mirrored frame
  mirNs : Nat := 0          -- 32 | R313 | - | TIMESTAMP of the mirror header
  mirEcn : Bool := false    -- 1 | R307 | - | the transmitted copy that an egress copy shows is marked
  mirCorr : Option Int := none  -- 2^-16 ns | R307 | - | what egress rewrite added to that copy's correctionField
  mirSize : Nat := 0        -- bytes | R309 | - | bytes the copy will send
  origLen : Option Nat := none  -- 14 | R313 | - | L of the mirrored frame, once known
  mirLimit : Bool := true   -- 1 | R309 | - | the limiter has judged the copy
  punt : Option (Nat × Nat) := none  -- ring reason | R229 | - | punt ring and REASON, when bound for one
  toKeeper : Bool := false  -- 1 | R232 | - | bound for the Keeper
  ecn : Bool := false       -- 1 | R424 | - | marked at the early decision
  kept : Nat := 9728        -- bytes | R405 | 9,728 | bytes held when the frame was found bad
  taken : Bool := false     -- 1 | R433 | - | it has been admitted: its cells in the comb count in IC
  laneIn : Nat := 0         -- 3 | R463, R464 | - | rate code of the arriving port's lanes
  fedE : Bool := false      -- 1 | R464 | - | the ingress operations have been charged
  spilled : Nat := 0        -- cells | R463 | - | cells written to the deep store
  readBack : Nat := 0       -- cells | R463 | - | cells read back
  byKeeper : Bool := false  -- 1 | R226, R233 | - | forwarded by the Keeper: its chain is of cells that the Keeper took
  counted : Bool := false   -- 1 | R734 | - | counted as received
  dropped : Bool := false   -- 1 | R321 | - | counted as dropped
  mcSent : List Nat := []   -- dies | R450 | - | dies on which a copy was transmitted
  mcDrop : List Nat := []   -- dies | R450 | - | dies on which a copy was dropped
  mcPart : List Nat := []   -- dies | R450 | - | dies that counted CNT_MC_PARTIAL
  deriving DecidableEq, Repr

/-- A frame or copy in a VOQ. -/
structure VItem where
  fid : Nat                 -- id | R378 | - | frame record
  slow : Bool := false      -- 1 | R379 | 0 | a punted frame or tap copy crossing to another die
  ecn : Bool := false       -- 1 | R425 | 0 | marked copy
  aborted : Bool := false   -- 1 | R353 | 0 | counted already, to be discarded
  flush : Option Nat := none -- 8 | R372 | none | reason of the flush that drops it
  at' : Nat := 0            -- time | R365 | 0 | when it joined the VOQ
  deriving DecidableEq, Repr

/-- State of a deep-store page in use. -/
inductive PageSt where
  | writing
  | stored
  | reading
  deriving DecidableEq, Repr

structure Page where
  idx : Nat                 -- 22 | R360 | - | page
  st : PageSt               -- enum | R363 | - | state
  cells : List (Nat × Nat)  -- 16 cells | R363 | - | (frame, cell number in its chain)
  into : List Nat := []     -- 16 cells | R366 | - | comb cells granted for the readback
  since : Nat := 0          -- time | R365 | - | start of the transfer in progress
  ue : Option Nat := none   -- 9 | R610 | none | word that the forager found uncorrectable
  deriving DecidableEq, Repr

/-- A VOQ. VOQs that are not listed are empty. -/
structure Voq where
  head : List VItem := []   -- frames | R361 | empty | HEAD, oldest first
  tail : List VItem := []   -- frames | R361 | empty | TAIL
  mid : List VItem := []    -- frames | R361 | empty | frames with cells in pages, between HEAD and TAIL
  pages : List Page := []   -- pages | R361 | empty | STORE, writes and reads in progress included
  spill : Bool := false     -- 1 | R361 | NORMAL | state
  balance : Nat := 0        -- cells | R381 | 0 | BALANCE
  asked : Nat := 0          -- cells | R383 | 0 | cells of the requests that no grant has answered
  room : List Nat := []     -- cells | R38 | empty | cells of the egress die set aside for the BALANCE
  avg : Nat := 0            -- 1/256 cell | R421 | 0 | AVG
  emptyAt : Nat := 0        -- time | R387 | 0 | when the VOQ last became empty
  waited : Bool := false    -- 1 | R365 | 0 | its ready page has been counted as waiting
  readyAt : Option Nat := none  -- time | R365 | none | since when its next page has been ready
  packed : List (Nat × Nat) := []  -- frames | R364 | empty | frames the packer has admitted, and cells not yet in a page
  deriving DecidableEq, Repr

/-- A piece of a frame in a flit: consecutive sectors of 32 bytes, with what the frame's descriptor on the sideband says
(R390, R391). -/
structure Piece where
  fid : Nat                 -- id | R390 | - | frame
  secs : Nat := 1           -- 1-8 | R390 | 1 | sectors
  slow : Bool := false      -- 1 | R379 | 0 | for the punt home or a tap die
  ecn : Bool := false       -- 1 | R425 | 0 | mark carried in the descriptor
  start : Bool := false     -- 1 | R391 | 0 | the frame begins in the first sector: its bit of START
  fin : Bool := false       -- 1 | R391 | 0 | the frame ends in the last sector: its bit of END
  bad : Bool := false       -- 1 | R391 | 0 | BAD
  deriving DecidableEq, Repr

/-- A data flit (R390, R391). -/
structure Flit where
  src : Nat                 -- 3 | R391 | - | SRC
  dst : Nat                 -- 3 | R391 | - | DST
  tc : Nat                  -- 3 | R391 | - | TC
  mc : Bool := false        -- 1 | R391 | 0 | MC
  lane : Nat := 0           -- 7 | R391 | 0 | LANE
  parts : List Piece        -- 8 sectors | R390 | - | what its sectors hold
  ord : Option Nat := none  -- count | R389 | none | place in the order in which its sender dealt it to the bridge
  deriving DecidableEq, Repr

inductive ChanSt where
  | unused
  | up
  | retraining
  | failed
  deriving DecidableEq, Repr

/-- The sending side of a bridge channel of a die, and what it has for it. -/
structure Chan where
  st : ChanSt := .unused    -- 2 | R415 | unused until start-up | CHANNEL
  seq : Nat := 0            -- 12 | R391 | 0 | SEQ of the next flit
  acked : Nat := 0          -- 12 | R391 | 0 | SEQ after the last one taken in order
  replay : List Flit := []  -- 3,125 flits | R392 | empty | sent and not yet acknowledged, oldest first
  relayTurn : Bool := false -- 1 | R398 | 0 (DESIGN CHOICE, log 8) | a relay flit goes next
  nak : Bool := false       -- 1 | R392 | 0 | replay in progress
  tries : Nat := 0          -- 5 | R393 | 0 | replays of the oldest flit in a row
  lastOk : Nat := 0         -- time | R393 | 0 | last flit delivered
  ctl : List Nat := []      -- 156 times | R394 | empty | control flits of the last 10 us, newest first
  failAt : Nat := 0         -- time | R409 | 0 | when it failed
  deriving DecidableEq, Repr

/-- A copy on its egress die: in a scheduler, the hold list, the residue or transmission. -/
structure Copy where
  id : Nat := 0             -- model | R351 | - | name of the copy
  fid : Nat := 0            -- id | R351 | - | frame record
  die : Nat := 0            -- 3 | R43 | - | egress die
  port : Nat := 0           -- 10 | R167 | - | egress port
  ve : Option Nat := none   -- 12 | R110 | - | destination VE
  eg : VeEntry := {}        -- record | R168 | - | destination VE's entry
  tc : Nat := 0             -- 3 | R110 | - | class
  group : Nat := 0          -- 6 | R455 | - | tenant group
  mc : Bool := false        -- 1 | R445 | - | multicast copy
  own : Bool := false       -- 1 | R37 | - | it leaves on the ingress chain of its own die
  owner : Owner := .dequeue -- enum | R351 | final egress dequeue | owner of its egress chain
  secs : Nat := 0           -- sectors | R390 | - | sectors that have left for the bridge
  cells : List Nat := []    -- cells | R39 | - | egress chain, of a unicast frame
  ncells : Nat := 0         -- cells | R382 | - | cells counted against the credits
  arrived : Bool := true    -- 1 | R39 | - | its first flit has arrived on this die
  ended : Bool := true      -- 1 | R386 | - | its last byte has arrived on this die
  handed : Bool := true     -- 1 | R351 | - | its last byte has left the ingress die, or never crosses
  cut : Bool := false       -- 1 | R400 | - | it left its VOQ by cut-through
  ecn : Bool := false       -- 1 | R424 | - | marked
  corr : Option Int := none -- 2^-16 ns | R513 | none | what egress rewrite adds to its PTP correctionField
  fed : Bool := false       -- 1 | R464 | 0 | its energy and its shaper tokens have been taken
  holdAt : Option Nat := none  -- time | R474 | none | start of the energy hold time
  heldOnce : Bool := false  -- 1 | R474 | 0 | counted in CNT_ENERGY_HOLD
  bornAt : Nat := 0         -- time | R446 | - | first judgement, for the residue age
  limit : Nat := 0          -- us | R446 | - | residue limit at first judgement
  bad : Option (Nat × Nat) := none  -- reason code | R403 | - | cause that ends it
  via : Nat := 0            -- 8 | R397, R464 | 0 | path code on which it crossed
  got : Nat := 0            -- sectors | R405, R410 | 0 | sectors that have arrived on this die
  kept : Nat := 9728        -- bytes | R405 | 9,728 | bytes that this die can send of it, when a cell was uncorrectable
  ops : Nat := 0            -- 1/256 pJ | R464 | 0 | operations charged so far, while its frame still arrives
  opsIn : Bool := false     -- 1 | R464 | 0 | the frame's ingress operations are charged with this copy
  startK : Nat := 0         -- 16.16 | R464 | 0 | K of its die when it started
  deriving DecidableEq, Repr

/-- A multicast chain on a destination die: the frame, its cells and its unresolved members (R43, R449). -/
structure McChain where
  die : Nat                 -- 3 | R444 | - | die
  fid : Nat                 -- id | R444 | - | frame
  cells : List Nat          -- cells | R444 | - | cells of the chain (none on the ingress die)
  left : List Nat           -- VE IDs | R444 | - | members still to judge
  open' : Nat               -- count | R445 | - | copies judged and not yet resolved
  slow : Bool := false      -- 1 | R379 | 0 | a punted frame or tap copy that crosses to this die
  arrived : Bool := true    -- 1 | R444 | 1 | its first flit has arrived
  ended : Bool := true      -- 1 | R444 | 1 | its last byte has arrived
  handed : Bool := true     -- 1 | R444 | 1 | its last byte has left the ingress die, or never crosses
  cut : Bool := false       -- 1 | R386 | 0 | it left its VOQ by cut-through
  cuts : List Nat := []     -- ports | R401 | empty | member ports to which it cuts through
  owner : Owner := .replication  -- enum | R351 | replication engine | owner of the chain
  secs : Nat := 0           -- sectors | R390 | 0 | sectors that have left for the bridge
  tc : Nat := 0             -- 3 | R444 | 0 | class
  ecn : Bool                -- 1 | R425 | - | marked
  begun : Bool              -- 1 | R444 | - | judging has begun
  grp : McGroup := {}       -- record | R444 | empty group | the group record as it stood then
  ncells : Nat := 0         -- count | R382 | 0 | cells counted against the source die's credits
  via : Nat := 0            -- 8 | R397, R464 | 0 | path code on which it crossed
  got : Nat := 0            -- sectors | R405, R410 | 0 | sectors that have arrived on this die
  aborted : Bool := false   -- 1 | R353 | 0 | its descriptor is marked ABORTED
  deriving DecidableEq, Repr

/-- OVER_QUOTA reporting of a tenant on a die (R188). -/
structure OverQ where
  bits : Nat := 0           -- 4 | R188 | 0 | OVER_QUOTA bits as last seen
  wait : Bool := false      -- 1 | R188 | 0 | a change waits to be reported
  last : Option Nat := none -- time | R188 | none | last EV_TEN_OVER_QUOTA
  deriving DecidableEq, Repr

/-- A transmit timestamp entry (R509). -/
structure Txts where
  tsId : Nat                -- 32 | R509 | - | TS_ID
  port : Nat                -- 16 | R509 | - | PORT
  ve : Nat                  -- 16 | R509 | - | VE
  domain : Nat              -- 4 | R509 | - | DOMAIN
  stomped : Bool            -- 1 | R509 | - | STOMPED
  time : Nat                -- 64 | R509 | - | TIME
  tick : Int                -- sixteenths of a tick | R509 | - | the timestamp, for the order of the queue
  deriving DecidableEq, Repr

/-- Power state of a slice (R481). -/
inductive SlicePow where
  | on
  | retention
  | off
  deriving DecidableEq, Repr

structure Slice where
  pow : SlicePow := .off    -- 2 | R482 | OFF | power state
  idleAt : Nat := 0         -- time | R485 | 0 | since when it has been idle
  queue : List Nat := []    -- 4,096 entries | R25 | empty | ingress queue, oldest first
  turn : Nat := 0           -- lane | R27 | 0 (DESIGN CHOICE, log 8) | local lane of the port served last
  deriving DecidableEq, Repr

/-- Energy account of a die (R466 to R470). -/
structure Acct where
  balance : Int := 0        -- pJ | R470 | 0 (DESIGN CHOICE, log 8) | balance
  share : Nat := 0          -- pJ | R469 | 0 (DESIGN CHOICE, log 8) | share of the current window
  u0 : Nat := 0             -- pJ | R468 | 0 | charged in the current window
  u1 : Nat := 0             -- pJ | R468 | 0 | charged in the window before
  nj : Nat := 0             -- pJ | R494 | 0 | charges not yet counted as whole nJ
  late : Nat := 0           -- pJ | R467, R520 | 0 | charged since a boundary that has not acted
  deriving DecidableEq, Repr

/-- Fused energy coefficients (R463, R495). -/
structure Coefs where
  lane : List Nat := [768, 614, 512, 410, 358]  -- 5 x 16 | R495 | nominal (DESIGN CHOICE, log 7) | 1/256 pJ/bit
  lookup : Nat := 120       -- 16 | R495 | nominal (log 7) | LOOKUP
  cellW : Nat := 300        -- 16 | R495 | nominal (log 7) | CELL_WRITE
  cellR : Nat := 300        -- 16 | R495 | nominal (log 7) | CELL_READ
  storeW : Nat := 8000      -- 16 | R495 | nominal (log 7) | STORE_WRITE
  storeR : Nat := 8000      -- 16 | R495 | nominal (log 7) | STORE_READ
  sector : Nat := 40        -- 16 | R495 | nominal (log 7) | SECTOR
  leak : List Nat := [0, 0, 0, 0, 0, 0, 0, 0]  -- 8 x - | R465, R481 | 0 (DESIGN CHOICE, log 7) | leakage, one for each row of R481
  deriving DecidableEq, Repr

/-- Entry of an error log (R604, R627). -/
structure LogEntry where
  ue : Bool := false        -- 1 | R627 | - | UE
  forager : Bool := false   -- 1 | R627 | - | FORAGER
  syndrome : Nat := 0       -- 8 | R627 | - | SYNDROME
  address : Nat := 0        -- 32 | R627 | - | ADDRESS
  count : Nat := 0          -- 32 | R627 | - | COUNT
  first : Nat := 0          -- 64 | R627 | - | FIRST
  last : Nat := 0           -- 64 | R627 | - | LAST
  deriving DecidableEq, Repr

/-- Error log and error event state of one memory of a die (R603, R604). -/
structure MemLog where
  entries : List LogEntry := []  -- 16 entries | R604 | empty | log
  overflow : Nat := 0       -- 32 | R604 | 0 | OVERFLOW
  ceAt : Option Nat := none -- time | R603 | none | last EV_MEM_CE
  ceN : Nat := 0            -- 32 | R603 | 0 | correctable errors since it
  ceAddr : Nat := 0         -- 32 | R626 | 0 | ADDRESS of the first of them
  ueAt : Option Nat := none -- time | R603 | none | last EV_MEM_UE
  ueN : Nat := 0            -- 32 | R603 | 0 | uncorrectable errors since it
  deriving DecidableEq, Repr

/-- Periodic counter snapshots (R322, R327). -/
structure Snap where
  enable : Bool := false    -- 1 | R333 | 0 (DESIGN CHOICE, log 8) | ENABLE
  event : Bool := false     -- 1 | R327 | 0 | EVENT
  nbuf : Nat := 2           -- 8 | R327 | 2 (DESIGN CHOICE, log 8) | NBUF
  home : Nat := 0           -- 8 | R327 | 0 | HOME
  interval : Nat := 10      -- 32 | R327 | 10 (DESIGN CHOICE, log 8) | INTERVAL, ms
  base : Nat := 0           -- 64 | R327 | 0 | BASE
  ranges : List (Nat × Nat) := []  -- 3 ranges | R327 | empty | first index and count
  t0 : Nat := 0             -- time | R322 | 0 | T0
  n : Nat := 0              -- count | R322 | 0 | snapshots fallen due
  s : Nat := 0              -- 64 | R323 | 0 | s of the last snapshot written
  skipped : Bool := false   -- 1 | R323 | 0 | SKIPPED for the next snapshot
  deriving DecidableEq, Repr

inductive Keeper where
  | booting
  | running
  | restarting
  | recovery
  deriving DecidableEq, Repr

/-- A change of a scheduled action that a restarting die still has to commit (R529). -/
structure Late where
  opcode : Nat              -- 16 | R529 | - | opcode of the embedded command
  params : BitVec 384       -- 384 | R529 | - | its parameters
  record : List Byte        -- bytes | R529 | - | its record
  deriving DecidableEq, Repr

/-- A walk of a table once in every period: index i falls due i × PERIOD / indexes after the start of the pass. -/
structure Sweep where
  at' : Nat := 0            -- time | R264 | 0 (DESIGN CHOICE, log 59) | start of the pass
  period : Nat := 60        -- 16 | R292 | 60 | PERIOD in effect in the pass, s
  pos : Nat := 0            -- index | R264 | 0 | first index that the pass has not visited
  deriving DecidableEq, Repr

/-- Error mode of a table of a die (R280, R283). -/
structure ErrMode where
  shadow : Bool := false    -- 1 | R280 | PARITY | mode
  period : Nat := 0         -- 16 | R288 | 0 | PERIOD
  base : Nat := 0           -- 64 | R288 | 0 | BASE
  parAt : Option Nat := none  -- time | R281 | none | last EV_TBL_PARITY
  sweep : Sweep := {}       -- record | R285 | at the start | pass of the compare engine
  deriving DecidableEq, Repr

/-- One die. -/
structure Die where
  lost : Bool := false      -- 1 | R411 | 0 | the die is lost
  parked : Bool := false    -- 1 | R489 | 0 | the die is parked
  storeFrom : Nat := 0      -- time | R481, R489 | 0 | from when the deep store is ON again after SELF_REFRESH
  keeper : Keeper := .booting  -- 2 | R580 | 0 | DIE_STATE.KEEPER
  ready : Bool := false     -- 1 | R581 | 0 | DIE_STATE.READY
  mbHalt : Bool := false    -- 1 | R568 | 0 | DIE_STATE.MB_HALT
  haltAt : Nat := 0         -- time | R620 | 0 (DESIGN CHOICE, log 59) | when the counter channel halted
  halted : List Nat := []   -- channels 1-3 | R620 | empty | halted counter, punt and tap channels
  perst : Bool := true      -- 1 | R679 | asserted (DESIGN CHOICE, log 10) | PERST_N is asserted
  perstAt : Nat := 0        -- time | R675 | 0 | when PERST_N was released
  split : Bool := false     -- 1 | R717 | 0 (DESIGN CHOICE, log 10) | PCIE_SPLIT as sampled
  link1 : Bool := false     -- 1 | R577 | 0 (DESIGN CHOICE, log 10) | in split mode, link 1 is connected
  pcieUp : Bool := false    -- 1 | R706 | 0 | the PCIe link is up
  restarts : Nat := 0       -- 32 | R573 | 0 | RESTARTS
  lastRestart : Nat := 0    -- 64 | R573 | 0 | LAST_RESTART
  traps : List Nat := []    -- 4 times | R618 | empty | latest Keeper traps
  trapAt : Nat := 0         -- time | R618 | 0 | first trap of the present restart
  trapCause : Nat := 0      -- 8 | R572 | 0 | cause of EV_KEEPER_RESTART
  late : List Late := []    -- actions | R529 | empty | action changes to commit after the restart
  cmdTurn : Nat := 7        -- 3 | R556 | 7 (DESIGN CHOICE, log 9) | command ring served last
  rings : List Ring := List.replicate 8 {}  -- 8 rings | R539 | reset rings | command and completion rings
  evt : EvtRing := {}       -- ring | R539 | reset ring | event ring
  home : Nat := 0           -- 3 | R570 | 0 | event home
  masked : List Nat := []   -- codes | R573 | empty | masked event codes
  seq : Nat := 0            -- 32 | R569 | 0 | events raised since reset
  lostEv : List (Nat × Nat) := []  -- rings x 32 | R571 | empty | events discarded for the event ring of a die since the last EV_EVENTS_LOST to it
  cause : BitVec 14 := 0    -- 14 | R580 | 0 | INT_CAUSE
  causeNew : BitVec 14 := 0 -- 14 | R17 | 0 | bits of INT_CAUSE that hardware set at causeAt
  causeAt : Nat := 0        -- time | R17 | 0 | when hardware last set a bit of INT_CAUSE
  intEn : BitVec 14 := 0    -- 14 | R580 | 0 | INT_MASK.ENABLE
  directVec : Nat := 31     -- 5 | R580 | 31 | DIRECT_VEC
  vecs : List (Fn × Nat × Vec) := []  -- 32 + 16 + 64 vectors | R588 | reset vectors | MSI-X vectors and coalescing
  indAddr : Nat := 0        -- 32 | R580 | 0 | IND_ADDR
  indErr : Bool := false    -- 1 | R580 | 0 | IND_CTRL.ERR
  indErrAt : Option Nat := none  -- time | R17 | none | when hardware last set ERR
  autoInc : Bool := false   -- 1 | R580 | 0 | IND_CTRL.AUTOINC
  indQ : List IndW := []    -- 8 writes | R585 | empty | pending indirect writes, oldest first
  pRings : List (PRing × PuntRing) := []  -- 16 + 64 rings | R227 | disabled | punt and tap rings
  puntQ : List Nat := []    -- frames | R230 | empty | frames and copies waiting for a punt ring
  tapQ : List Nat := []     -- copies | R315 | empty | tap copies waiting for a tap ring
  keeperQ : List Nat := []  -- 1,024 frames | R232 | empty | frames the Keeper holds
  tab : Tables := {}        -- tables | R22 | reset tables | the die's copy of the package-wide tables
  pols : List (Nat × Policer) := []  -- 16,384 | R297 | reset policers | policers
  rules : List ((Nat × Nat) × Rule) := []  -- 4 x 16,384 | R218 | every entry invalid (DESIGN CHOICE, log 8) | classifier rules of (slice, index)
  wreds : List (Nat × Wred) := []  -- 64 | R419 | ENABLE clear | WRED profiles
  mac : List (Nat × MacEntry) := []  -- 262,144 | R247 | every entry invalid (DESIGN CHOICE, log 8) | MAC table by index
  evictOldest : Bool := false  -- 1 | R288 | 0 | EVICT
  agePeriod : Nat := 60     -- 16 | R264 | 60 | AGE_PERIOD
  ageSweep : Sweep := {}    -- record | R264 | at the start | pass of the aging sweep
  badPar : List (Nat × Nat) := []  -- 5 tables | R249, R271, R272, R281 | empty | entries whose parity is bad: table and index
  learnQ : List Learn := [] -- 4,096 events | R254 | empty | learn queue
  lpm : List ((Nat × Nat) × (RouteKey × NextHop)) := []  -- 524,288 + 131,072 | R269 | empty (DESIGN CHOICE, log 8) | stored entries of (family, index)
  errModes : List (Nat × ErrMode) := []  -- 4 | R280 | PARITY | error modes
  counters : List (Nat × Nat) := []  -- 1,048,576 x 64 | R317 | 0 | counters
  combUse : List (Nat × Nat) := []  -- 1,024 | R176 | 0 | comb cells charged to a tenant
  veUse : List (Nat × Nat) := []  -- 4,096 | R178 | 0 | comb cells charged to a VE
  storeUse : List (Nat × Nat) := []  -- 1,024 | R364 | 0 | deep-store cells charged to a tenant
  packing : List (Nat × Nat) := []  -- 1,024 | R364 | 0 | cells the packers have admitted and not written
  puntB : List (Nat × Bucket) := []  -- 1,024 | R183 | full when the record becomes valid | punt limiter, in frames x 781,250,000
  mirB : List (Nat × Bucket) := []  -- 1,024 | R184 | full when the record becomes valid | mirror limiter
  overQ : List (Nat × OverQ) := []  -- 1,024 | R188 | 0 | OVER_QUOTA reporting of each tenant
  comb : Comb := {}         -- comb | R334 | reset comb | the comb
  calLane : List Byte := []  -- 7,680 bytes | R685 | empty, read as 0 | CAL_LANE as start-up read it from the fuses
  calTs : List Byte := []   -- 14,592 bytes | R685 | empty, read as 0 | CAL_TS as start-up read it
  calSensor : List Byte := []  -- 128 bytes | R685 | empty, read as 0 | CAL_SENSOR as start-up read it
  calRail : List Byte := []  -- 48 bytes | R685 | empty, read as 0 | CAL_RAIL as start-up read it
  pagesUsed : List Nat := []  -- 4,194,304 | R360 | empty | pages that hold cells or are in transfer
  pagesRetired : List Nat := []  -- 65,536 | R622 | empty | retired pages
  writeAt : Nat := 0        -- time | R365 | 0 | start of the last page write
  writeRot : Option VoqKey := none  -- VOQ | R365 | none | VOQ whose page was written last
  readAt : Nat := 0         -- time | R366 | 0 | start of the last page read
  readRot : Option VoqKey := none  -- VOQ | R366 | none | VOQ whose page was read last
  fullAt : Option Nat := none  -- time | R373 | none | last EV_STORE_FULL
  txts : List Txts := []    -- 64 entries | R509 | empty | transmit timestamp queue
  txOver : Bool := false    -- 1 | R510 | 0 | OVERFLOW
  txtsAt : Option Nat := none  -- time | R511 | none | last EV_TXTS
  slices : List Slice := List.replicate 4 {}  -- 4 slices | R481 | OFF | slices
  chans : List Chan := List.replicate 7 {}  -- 7 channels | R389 | unused until start-up | bridge channels
  outq : List (Nat × List Flit) := []  -- flits | R390 | empty | own flits that wait for the bridge to each die
  relays : List (Nat × List Flit) := []  -- 64 KiB each | R398 | empty | relay buffer of the bridge to each die
  rxHold : List (Nat × Flit) := []  -- flits | R389 | empty | flits taken from the bridge of a die that wait for earlier ones
  dealt : List (Nat × Nat) := []  -- 7 counts | R389 | 0 | flits dealt to the bridge to each die (DESIGN CHOICE, log 12)
  paths : List (Nat × List Nat) := []  -- 7 x 64 x 4 | R396 | 0x00 | path tables by egress die
  draining : List (Nat × List Nat) := []  -- tables | R399 | empty | drains in progress and their new tables
  hbAt : Nat := 0           -- time | R409 | 0 | last heartbeat received
  txStop : Bool := false    -- 1 | R409 | 0 | the die has stopped transmitting data
  creditAt : Nat × Nat := (0, 0)  -- pair | R385 | 0 (DESIGN CHOICE, log 8) | (class below 7, source die) served last for the replication engine
  credit7 : Nat := 0        -- 3 | R385 | 0 (DESIGN CHOICE, log 8) | source die served last for it in TC7
  mcIn : List McChain := [] -- chains | R445 | empty | multicast chains of the replication engine
  residue : List Nat := []  -- 16,384 copies | R448 | empty | residue copies in order of first judgement
  residueAt : Nat := 0      -- count | R446 | 0 | last multiple of 1 us at which the residue was judged
  wredAt : Nat := 0         -- count | R421 | 0 | multiples of 1 us at which AVG has been updated
  k : Nat := 65536          -- 1/65536 | R465 | 1.0 | K in force
  kNext : List Nat := [65536]  -- 1/65536 | R465 | 1.0 | K of the next window
  eDyn : Nat := 0           -- pJ | R465 | 0 | charges of the window with K = 1
  eLate : Nat := 0          -- pJ | R467, R520 | 0 | charges with K = 1 since a boundary that has not acted
  accts : List (Nat × Acct) := []  -- 1,024 | R466 | empty accounts | energy accounts
  coefs : Coefs := {}       -- record | R463 | nominal (log 7) | fused coefficients
  park : Nat := 0           -- 2 | R495 | 0 | PARK
  bankPark : Bool := true   -- 1 | R495 | 1 | BANK_PARK_EN
  calFreeze : Bool := false -- 1 | R495 | 0 | CAL_FREEZE
  l2Delay : Nat := 100      -- 16 | R483 | 100 | L2_DELAY, ms
  rails : List (Nat × Nat) := []  -- 6 x (32 + 32) | R587 | 0 | latest rail readings, mV and mA
  temps : List (List Int) := []  -- samples | R478 | empty | sensor samples of the last 1.1 ms, newest first, 1/16 degree C
  tMax : Int := 0           -- 16 signed | R598 | 0 | highest T_now
  hot : Bool := false       -- 1 | R599 | 0 | INT_CAUSE.THERMAL is not to be set again before T_MAX falls
  fcast : Int := 0          -- 1/160 C | R478 | 0 | highest sensor forecast of the die
  pSum : Nat := 0           -- uW | R477 | 0 | sum of the power samples of the window
  pN : Nat := 0             -- count | R477 | 0 | power samples of the window
  sampled : Nat := 0        -- count | R476 | 0 | number of the 10 µs period last sampled
  pMean : Nat := 0          -- mW | R598 | 0 | mean power of the last complete window
  scrub : List Nat := [240, 240, 240]  -- 3 x 16 | R606 | 240 | pass times, min
  walk : List Nat := [0, 0, 0, 0, 0, 0]  -- 6 lines | R606 | 0 | next line of each memory
  walkAt : List Nat := [0, 0, 0, 0, 0, 0]  -- 6 times | R606 | 0 | when the next line of each memory falls due
  walkRem : List Nat := [0, 0, 0, 0, 0, 0]  -- 6 counts | R606 | 0 | the part of that time below 80 ps, in parts of the lines of the memory
  passes : List Nat := [0, 0, 0, 0, 0, 0]  -- 6 x 32 | R627 | 0 | complete passes of each memory
  logs : List (Nat × MemLog) := []  -- 8 logs | R604 | empty | error logs
  snap : Snap := {}         -- record | R322 | disabled | counter snapshots
  draws : Nat := 0          -- model | R422 | 0 (DESIGN CHOICE, log 2) | draws of the pseudo-random generator so far
  intCode : Nat := 0        -- model | R554 | 0 (DESIGN CHOICE, log 4) | EV_INTERNAL raised so far
  deriving DecidableEq, Repr

/-- A time domain (R501). OFFSET is in units of 2^-16 ns. -/
structure Domain where
  anchor : Nat := 0         -- 64 | R501 | 0 | ANCHOR
  offset : Int := 0         -- 64.16 | R501 | 0 | OFFSET, 2^-16 ns
  rate : Int := 0           -- 48 signed | R503 | 0 | RATE, 2^-16 ppb
  deriving DecidableEq, Repr

/-- A pending scheduled action (R523). -/
structure Action where
  id : Nat                  -- 32 | R534 | - | ACTION_ID
  domain : Nat              -- 4 | R531 | - | DOMAIN
  t : Nat                   -- 64 | R531 | - | T
  opcode : Nat              -- 16 | R531 | - | embedded opcode
  params : BitVec 384       -- 48 bytes | R531 | - | embedded parameters
  record : List Byte        -- bytes | R523 | - | host record read at acceptance
  past : Bool               -- 1 | R526 | - | T was past at acceptance
  readyAt : Nat             -- time | R525 | - | when its preparation is complete
  missed : Bool := false    -- 1 | R655 | - | its tick had passed at takeover
  dueTick : Option Nat := none  -- count | R524 | none | the action tick at which it first came due, or one after it, as the domain stood before its latest change
  deriving DecidableEq, Repr

/-- What a command in progress waits for before it completes. -/
inductive Wait where
  | drain (src dst : Nat)   -- R416
  | handover                -- R663
  | action (id : Nat)       -- R526
  deriving DecidableEq, Repr

/-- A completion not yet written: the command it belongs to and the reply (R555, R568). -/
structure Pend where
  die : Nat                 -- 3 | R546 | - | die of the ring
  ring : Nat                -- 3 | R546 | - | ring
  epoch : Nat               -- model | R537 | - | enable count of the ring when the command was fetched
  fence : Bool              -- 1 | R557 | - | FENCE
  tag : BitVec 32           -- 32 | R548 | - | TAG
  opcode : Nat              -- 16 | R548 | - | OPCODE
  fetch : Nat               -- 16 | R548 | - | FETCH after this command was fetched
  raddr : Nat               -- 64 | R546 | - | RESULT_ADDR
  status : Nat              -- 8 | R548 | - | STATUS
  detail : Nat              -- 32 | R548 | - | DETAIL
  result : List Byte        -- 64 bytes | R546 | - | contents of the result area
  seq : Nat                 -- 64 | R648 | - | journal entry whose receipt it waits for, 0 for none
  wait : Option Wait        -- record | R555 | - | what it waits for; none: the mailbox channel, the Keeper or the receipt alone
  deriving DecidableEq, Repr

/-- PPS pins (R517, R531). -/
structure Pps where
  outEn : Bool := false     -- 1 | R531 | 0 | OUT_EN
  inEn : Bool := false      -- 1 | R531 | 0 | IN_EN
  outDomain : Nat := 0      -- 4 | R531 | 0 | OUT_DOMAIN
  outOffset : Int := 0      -- 32 signed | R531 | 0 | OUT_OFFSET, ns
  outWidth : Nat := 100000000  -- 32 | R531 | 100,000,000 | OUT_WIDTH, ns
  inCorr : Int := 0         -- 32 signed | R531 | 0 | IN_CORR, ps
  out : Bool := false       -- 1 | R518 | 0 (DESIGN CHOICE, log 10) | level of PPS_OUT
  outRose : Option Nat := none  -- time | R518 | none | last rise of PPS_OUT
  nextN : Option Int := none  -- count | R518 | none | last second boundary consumed
  grain : Nat := 0          -- 64 | R531 | 0 | GRAIN of the last accepted edge
  frac : Nat := 0           -- 4 | R531 | 0 | FRAC
  seq : Nat := 0            -- 32 | R531 | 0 | SEQ
  lastIn : Option Nat := none  -- time | R517 | none | last accepted edge
  deriving DecidableEq, Repr

/-- A filtered input pin (R714, R715). -/
structure Pin where
  level : Bool := false     -- 1 | R714 | 0 (DESIGN CHOICE, log 10) | filtered level, asserted or high
  lowAt : Option Nat := none  -- time | R715 | none | when it was last accepted as deasserted
  deriving DecidableEq, Repr

inductive Sync where
  | none
  | stale
  | resyncing
  | inSync
  deriving DecidableEq, Repr

/-- Active and standby pairing (chapter 16). -/
structure Ha where
  paired : Bool := false    -- 1 | R630 | from the configuration block | PAIR_EN
  prefBit : Bool := false   -- 1 | R630 | from the configuration block | PREFERRED bit
  preferred : Bool := false -- 1 | R633 | from the configuration block | PREFERRED in effect
  holder : Bool := false    -- 1 | R643 | 0 | holds the queen lease
  epoch : Nat := 0          -- 16 | R643 | 0 | current EPOCH
  seen : Nat := 0           -- 16 | R641 | 0 | newest EPOCH received
  fenced : Bool := false    -- 1 | R661 | 0 | fenced under R639 or R645
  sync : Sync := .none      -- 2 | R661 | none for an unpaired package (DESIGN CHOICE, log 13) | own state, or the standby's on a holder
  cause : Nat := 0          -- 8 | R661 | 0 | STALE_CAUSE
  lease : Nat := 20         -- 16 | R634 | 20 | LEASE configured, ms
  inForce : Nat := 20       -- 16 | R634 | 20 | LEASE in force, ms
  holdDown : Nat := 30      -- 16 | R658 | 30 | HOLD_DOWN, s
  auto : Bool := true       -- 1 | R661 | 1 | RESYNC_AUTO
  renewN : Nat := 0         -- 32 | R635 | 0 | number of the last renewal sent
  renewAt : Nat := 0        -- time | R635 | 0 | send of the last renewal
  ansAt : Option Nat := none  -- time | R639 | none | send of the last answered renewal since the lease was taken
  soloOk : Bool := false    -- 1 | R644 | 0 | fenced under R639, so that solo resumption is open
  waiting : Bool := false   -- 1 | R638 | 0 | the last renewal has no answer yet
  seenAt : Nat := 0         -- time | R640 | 0 | last renewal seen
  edgeAt : Option Nat := none  -- time | R636 | none | previous rising edge of QUEEN_IN
  pinAt : Option Nat := none  -- time | R661 | none | last renewal or answer on the pins
  queenOut : Bool := false  -- 1 | R635 | 0 (DESIGN CHOICE, log 10) | level of QUEEN_OUT
  queenAt : Nat := 0        -- time | R635 | 0 | last rise of QUEEN_OUT
  readyAt : Nat := 0        -- time | R643 | 0 | when the mailboxes became ready
  sawRenew : Bool := false  -- 1 | R633 | 0 | a RENEW or a held lease since start-up
  sawActive : Bool := false -- 1 | R643 | 0 | a renewal or ROLE ACTIVE since start-up
  sawAnnounce : Bool := false  -- 1 | R643 | 0 | an ANNOUNCE since start-up
  sawPeer : Bool := false   -- 1 | R643 | 0 | a peer frame since start-up
  activeAt : Option Nat := none  -- time | R643 | none | last renewal, or ROLE = ACTIVE, seen
  frameAt : Option Nat := none  -- time | R643 | none | last peer frame received
  annAt : Nat := 0          -- time | R633 | 0 | last ANNOUNCE sent
  peerAt : Option Nat := none  -- time | R644 | none | last RENEW, ANSWER or RECEIPT received
  newer : Bool := false     -- 1 | R644 | 0 | a newer EPOCH was received since the fence
  serial : Nat := 0         -- 64 | R661 | 0 | d0 serial of the peer
  peerFw : Nat := 0         -- 32 | R661 | 0 | firmware version of the peer
  peerPref : Bool := false  -- 1 | R658 | 0 | PREFERRED bit of the peer's last frame
  peerHolds : Bool := false -- 1 | R652 | 0 | the peer's last frame says it holds the lease
  peerLease : Nat := 20     -- 16 | R634 | 20 | LEASE of the holder as last received
  seq : Nat := 0            -- 64 | R646 | 0 | last entry journaled, or applied on a standby
  buffer : List (Nat × Nat) := []  -- 65,536 entries | R649 | empty | journaled entries not reported applied: SEQ and send time
  recvd : Nat := 0          -- 64 | R648 | 0 | highest SEQ the standby reported received
  applied : Nat := 0        -- 64 | R648 | 0 | highest SEQ the standby reported applied
  q7 : List (List Byte) := []  -- frames | R156 | empty | TC7 peer frames that wait for the transmitter, oldest first
  q6 : List (Nat × List Byte) := []  -- frames | R156 | empty | TC6 peer frames that wait, with the SEQ of a JOURNAL frame's entry or 0
  inbox : List (List Byte) := []  -- frames | R158 | empty | peer frames received and not yet read by the Keeper
  receiptAt : Nat := 0      -- time | R648 | 0 | last RECEIPT sent
  staleAt : Nat := 0        -- time | R652 | 0 | since when the standby has been STALE
  inSyncAt : Nat := 0       -- time | R658 | 0 | since when the standby has been IN_SYNC
  handover : Bool := false  -- 1 | R657 | 0 | a handover is in progress
  based : Bool := false     -- 1 | R652 | 0 | the resynchronisation in progress has its base SEQ
  acked : Bool := false     -- 1 | R652 | 0 | the holder has shown that it knows of the resynchronisation
  lastSnap : Bool := false  -- 1 | R653 | 0 | the last snapshot record has been applied
  touched : List ((Nat × Nat) × Nat) := []  -- objects | R652 | empty | objects changed during a resynchronisation, and the SEQ of the change
  undo : List (Nat × Nat × Nat × List Nat) := []  -- entries | R646 | empty | QOS_PATH_SET entries applied: SEQ, SRC, DST and the path table before
  deriving DecidableEq, Repr

/-- Package-wide values of the power, multicast and boot chapters. -/
structure Pkg where
  residue : Nat := 100      -- 16 | R446 | 100 | RESIDUE_LIMIT, us
  mcPort : Nat := 1024      -- 32 | R452 | 1,024 | MC_PORT_LIMIT
  cap : Nat := 0            -- 16 | R495 | 0 | CAP, W
  capNow : Nat := 0         -- 16 | R497 | 0 | CAP in force since the last window boundary, W
  capEff : Nat := 0         -- 16 | R475, R468 | 0 until start-up | CAP_EFF at the start of the window, W x 20
  tLimit : Nat := 105       -- 8 | R495 | 105 | T_LIMIT
  margin : Nat := 5         -- 8 | R495 | 5 | MARGIN
  horizon : Nat := 50       -- 16 | R495 | 50 | HORIZON, ms
  tLimNow : Nat := 105      -- 8 | R497 | 105 | T_LIMIT in effect since the last update of k
  hznNow : Nat := 50        -- 16 | R497 | 50 | HORIZON in effect since the last update of k, ms
  k : Nat := 0              -- 4 | R475 | 0 | forecast step
  kAt : Nat := 0            -- count | R479 | 0 | multiples of 10 ms at which k has been updated
  override : Bool := false  -- 1 | R480 | 0 | power-cap override in effect
  engaged : Bool := false   -- 1 | R477 | 0 (DESIGN CHOICE, log 8) | the cap is engaged
  below : Nat := 0          -- count | R477 | 0 | windows in a row below 0.90 x CAP_EFF
  window : Nat := 0         -- 64 | R467 | 0 | current window
  pMean : Nat := 0          -- mW | R598 | 0 | mean package power of the last complete window
  pNow : Nat := 0           -- µW | R476 | 0 | package power: the sum of the latest rail readings of every die
  e0 : Nat := 0             -- pJ | R468 | 0 | metered energy of the last complete window
  scale : Nat × Nat := (1, 1)  -- fraction | R468 | 1 | scale of the current window
  fcast : Int := 0          -- 1/160 C | R478 | 0 | F
  deriving DecidableEq, Repr

/-- What stops the package as a whole. -/
inductive Run where
  | reset                   -- held in package reset (R703)
  | running
  | recovery                -- recovery boot (R680)
  | haltedStart             -- start-up halted (R678)
  | lost                    -- d0 is lost (R49)
  | packageStop             -- R706
  deriving DecidableEq, Repr

/-- What the device has put on a wire, a pin or a bus, newest first. The model's own record of outputs. -/
inductive Out where
  | hello (port : Nat) (contents : List (BitVec 40))
  | role (port : Nat) (role quiet epoch : Nat)
  | pauseRow (port mask hold : Nat)
  | veXoff (port ve mask hold : Nat) (xoff : Bool)
  | macControl (port : Nat) (bytes : List Byte)
  | frame (port : Nat) (header : BitVec 56) (bytes : List Byte)
  | stomp (port code : Nat) (bytes : List Byte)
  | msix (die : Nat) (fn : Fn) (vec addr data : Nat)
  | pin (name : String) (level : Bool)
  | peer (header : BitVec 56) (bytes : List Byte)
  | prbs (port rate : Nat) (gens : List (BitVec 31 × Bool))  -- PRBS31 from these generators, inverted or not, lane by lane (R53, R82)
  | idle (port : Nat)       -- IDLE blocks, or PCS idle, from here until something else goes out
  | anPage (port type : Nat) (fec : List Nat)  -- base pages of Clause 73 with one technology ability and FEC abilities by codeword length (R67)
  | idleRun (port blocks : Nat)  -- IDLE blocks on every lane before the first ROLE after electrical idle (R142)
  | indRead (die : Nat) (value : Word)
  | hostWrite (die : Nat) (fn : Fn) (addr : Nat) (bytes : List Byte)  -- a write to host memory: the endpoint and the function that carry it (R538)
  deriving DecidableEq, Repr

/-- The registers and stores of the AON domain of d0, the fuses and the flash. -/
structure Aon where
  lock : Bool := false      -- 1 | R594 | 0 | LOCK.SVC
  sel : Nat := 0            -- 4 | R580 | 0 | GUARD_SEL.TARGET
  armed : Option (Word × Nat × Nat) := none  -- record | R596 | none | armed sequence: VALUE, TARGET, time of GUARD_A
  fails : Nat := 0          -- 16 | R580 | 0 | GUARD_STAT.FAILS
  lockedF : Bool := false   -- 1 | R580 | 0 | GUARD_STAT.LOCKED
  failF : Bool := false     -- 1 | R580 | 0 | GUARD_STAT.FAIL
  doneF : Bool := false     -- 1 | R580 | 0 | GUARD_STAT.DONE
  failAt : Option Nat := none  -- AON cycle | R17 | none | when hardware last set FAIL
  doneAt : Option Nat := none  -- AON cycle | R17 | none | when hardware last set DONE
  lockedAt : Option Nat := none  -- AON cycle | R17 | none | when hardware last set LOCKED
  override : Bool := false  -- 1 | R595 | 0 | PWR_OVERRIDE.OVERRIDE
  park : BitVec 8 := 0      -- 8 | R595 | 0 | DIE_PARK
  force : Nat := 0          -- 2 | R595 | 0 | LEASE_FORCE.FORCE
  fuseEn : Option Nat := none  -- 1 + time | R595 | 0 | FUSE_PROG_EN.EN and when it was set
  fuses : List ((Nat × Nat) × List Byte) := []  -- bytes | R685 | 0 (unprogrammed) | factory fuses by (ID, die)
  opKey : Option (BitVec 384) := none  -- 48 bytes + marker | R688 | unprogrammed | OP_KEY_HASH
  opBank0Bad : Bool := false  -- 1 | R688 | 0 | bank 0 was cut short and is unusable
  rollback : Nat := 0       -- 64 | R685 | 0 | ROLLBACK
  dbgDisable : Bool := false  -- 1 | R685 | 0 | DBG_DISABLE
  debugUsed : Bool := false -- 1 | R689 | 0 | DEBUG_USED
  flash : List (List Byte) := [[], [], [], []]  -- 64 MiB | R665 | empty (DESIGN CHOICE, log 6) | configuration copies A, B and firmware copies A, B
  fwValid : Nat := 0        -- 2 | R691 | 0 | FW_VALID as last judged
  cfgValid : Nat := 0       -- 2 | R691 | 0 | CFG_VALID as last judged
  fwRun : Nat := 2          -- 2 | R691 | 2 | FW_RUNNING
  cfgRun : Nat := 2         -- 2 | R691 | 2 | CFG_RUNNING
  fwVersion : Nat := 0      -- 32 | R580 | 0 | FW_VERSION of the running firmware
  secVersion : Nat := 0     -- 32 | R690 | 0 | SECURITY_VERSION of the running firmware
  fwImage : List Byte := [] -- 512 KiB | R600 | empty | running image (image stores and recorded digest)
  cfgImage : List Byte := []  -- 13,956 bytes | R671 | empty | running configuration block
  resetAt : Nat := 0        -- time | R703 | 0 | start of the package reset
  badFw : List Nat := []    -- copies | R673 | empty | firmware copies treated as invalid until the next reset
  deriving DecidableEq, Repr

/-- The part of the state outside the AON domain. -/
structure Dev where
  part : Part := .km8800    -- enum | R1 | KM-8800 (DESIGN CHOICE, log 1) | the part
  now : Nat := 0            -- time | R499 | 0 (DESIGN CHOICE, log 5) | time in sixteenths of a grain tick
  grain0 : Option Nat := none  -- time | R499 | none | when the grain counters started
  run : Run := .reset       -- enum | R674 | in reset | package state
  thermal : Bool := false   -- 1 | R720 | 0 | thermal stop
  coolAt : Option Nat := none  -- time | R722 | none | since when the conditions to leave it hold
  fault : Pin := {}         -- pin | R714 | deasserted (DESIGN CHOICE, log 10) | FAULT_IN_N
  queen : Pin := {}         -- pin | R714 | low (DESIGN CHOICE, log 10) | QUEEN_IN
  ppsIn : Pin := {}         -- pin | R714 | low (DESIGN CHOICE, log 10) | PPS_IN
  pwrOk : Bool := false     -- 1 | R587 | 0 | filtered PWR_OK
  alert : Bool := false     -- 1 | R718 | 0 | ALERT_N driven asserted
  fwVersion : Nat := 0      -- 32 | R574 | 0 | FW_VERSION of the running firmware, as SYS_INFO reports it
  serial0 : Nat := 0        -- 64 | R685 | 0 | DIE_SERIAL of d0, as the peer frames carry it
  sensorTrim : List ((Nat × Nat) × Int) := []  -- 8 x 64 x 16 | R683 | 0 | effective sensor trims, 1/16 C
  railCal : List ((Nat × Nat) × (Int × Int × Int)) := []  -- 8 x 6 x 3 | R683 | 0 | effective gain, current and voltage offset
  readyOnce : Bool := false -- 1 | R673 | 0 | READY of d0 has risen since the package reset
  lostAtBoot : List Nat := []  -- dies | R677 | empty | EV_DIE_LOST still to raise
  dies : List Die := List.replicate 8 {}  -- 8 dies | R1 | reset dies | dies; entries beyond the part are never used
  ports : List (Nat × Port) := []  -- 8 x 96 | R50 | disabled | ports by global ID
  lanes : List (Nat × Lane) := []  -- 8 x 96 | R50 | reset lanes | lanes by global ID
  frames : List Frame := [] -- frames | R336 | empty | frames in the device
  copies : List Copy := []  -- copies | R445 | empty | copies on egress dies
  voqs : List (VoqKey × Voq) := []  -- VOQs | R378 | empty | VOQs
  nextId : Nat := 1         -- model | R351 | 1 (DESIGN CHOICE, log 12) | name of the next frame or copy record
  master : Tables := {}     -- tables | R536 | reset tables | d0's master copy of the package-wide tables
  mirSeq : List (Nat × Nat) := []  -- 16 x 32 | R312 | 0 | next sequence number of each mirror session
  unstated : Nat := 0       -- model | R313 | 0 (DESIGN CHOICE, log 18) | values taken so far where the spec states none
  mirror : Tables := {}     -- tables | R617 | reset tables | the mirror die's mirror of the master copy
  mirrorOk : Bool := true   -- 1 | R617 | 1 (DESIGN CHOICE, log 8) | the mirror of the master copy is complete
  pkg : Pkg := {}           -- record | R452 | reset values | package-wide values
  ha : Ha := {}             -- record | R630 | unpaired | pairing
  domains : List Domain := List.replicate 16 {}  -- 16 domains | R501 | 0 | time domains
  bcSlave : List (Nat × Nat) := []  -- 16 x port | R516 | empty | slave port that the boundary clock of a domain has selected
  pps : Pps := {}           -- record | R531 | reset values | PPS pins
  actions : List Action := []  -- 4,096 | R523 | empty | pending scheduled actions
  nextAction : Nat := 1     -- 32 | R534 | 1 (DESIGN CHOICE, log 8) | next ACTION_ID
  pends : List Pend := []   -- commands | R555 | empty | commands in progress and completions held, oldest first
  mem : List Host.Cell := []  -- 2^64 bytes | R538 | empty | host memory as the device has written it; canonical (log 14)
  out : List Out := []      -- model | R131 | empty | outputs, newest first
  deriving DecidableEq, Repr

/-- The whole machine: the AON domain, the device and the queue of commands that wait. -/
structure State where
  pending : List Instr := []  -- model | R555 | empty | commands waiting, first in, first out
  aon : Aon := {}           -- record | R579 | reset values | AON domain, fuses and flash
  dev : Dev := {}           -- record | R22 | reset values | everything else
  deriving DecidableEq, Repr

/-- The machine right after a package reset (R579, R703): PWR_OK low, nothing started, no command waiting. -/
def State.reset : State := {}

end Sys2Proof.Machine
end

