-- ==== Sys2Proof/Machine/Ops.lean ====
section
/-! DEFINITION. The shared operations over the state: the part and its units, time, host memory, counters, interrupts
and MSI-X, events, and the counting of drops. -/

namespace Sys2Proof.Machine

/-- The outcome of a command that changes the device alone. -/
def onDev (s : State) (f : Dev → Dev) : Host.Outcome State Fault Refusal := .next { s with dev := f s.dev }

/- The part and its units (R1, R6). -/

def dieCount : Part → Nat
  | .km8200 => 2
  | .km8400 => 4
  | .km8800 => 8

/-- PART as SYS_INFO and ID_PART report it. -/
def partCode : Part → Nat
  | .km8200 => 0x8200
  | .km8400 => 0x8400
  | .km8800 => 0x8800

/-- Time domains of the part. -/
def domainCount : Part → Nat
  | .km8800 => 16
  | _ => 1

/-- Maximum package power in W (R1). -/
def partPower : Part → Nat
  | .km8200 => 420
  | .km8400 => 840
  | .km8800 => 1700

def dieOf (d : Dev) (n : Nat) : Die := d.dies.getD n {}

def onDie (d : Dev) (n : Nat) (f : Die → Die) : Dev := { d with dies := lmod d.dies n f }

/-- The part has the die. -/
def hasDie (d : Dev) (n : Nat) : Bool := n < dieCount d.part

/-- The part has the die and it is not lost. -/
def alive (d : Dev) (n : Nat) : Bool := hasDie d n && !(dieOf d n).lost

/-- The dies of the part that are not lost, ascending. -/
def aliveDies (d : Dev) : List Nat := (List.range (dieCount d.part)).filter (alive d)

def onDies (d : Dev) (l : List Nat) (f : Die → Die) : Dev := l.foldl (fun d n => onDie d n f) d

/-- The die of a global port or lane ID (R6). -/
def dieOfPort (p : Nat) : Nat := p / 128

/-- The local number of a global port or lane ID (R6). -/
def localOf (p : Nat) : Nat := p % 128

/-- The slice that owns a lane (R5). -/
def sliceOfPort (p : Nat) : Nat := localOf p / 24

def portOf (d : Dev) (p : Nat) : Port := kget d.ports p {}

def onPort (d : Dev) (p : Nat) (f : Port → Port) : Dev := { d with ports := kput d.ports p (f (portOf d p)) }

def laneOf (d : Dev) (l : Nat) : Lane := kget d.lanes l {}

def onLane (d : Dev) (l : Nat) (f : Lane → Lane) : Dev := { d with lanes := kput d.lanes l (f (laneOf d l)) }

/-- The global lane IDs of a port, lowest first. -/
def portLanes (d : Dev) (p : Nat) : List Nat := (List.range (portOf d p).conf.width).map (p + ·)

/-- A configured port: MODE 1 or 2 (R90). -/
def isPort (d : Dev) (p : Nat) : Bool := (portOf d p).conf.mode != 0

/-- The configured ports, with their global IDs. -/
def configured (d : Dev) : List Nat := (d.ports.filter fun e => e.2.conf.mode != 0).map (·.1)

/-- The configured port that a lane belongs to. -/
def portOfLane (d : Dev) (l : Nat) : Option Nat :=
  (configured d).find? fun p => p ≤ l && l < p + (portOf d p).conf.width

/- Calibration (R683). -/

/-- An effective value: factory plus user, limited to the range of the hardware that applies it (R683). -/
def calLimit (quantity : Nat) (v : Int) : Int := max (Config.calRange quantity).1 (min (Config.calRange quantity).2 v)

/-- The signed little-endian field of `n` bytes at offset `i` of a fuse. -/
def fuseInt (l : List Byte) (i n : Nat) : Int := signedOf (8 * n) (leAt l i n)

/-- The trim of sensor `k` of die `n`, in 1/16 degree C (R683). -/
def sensorTrimOf (d : Dev) (n k : Nat) : Int :=
  calLimit 2 (fuseInt (dieOf d n).calSensor (2 * k) 2 + kget d.sensorTrim (n, k) 0)

/-- GAIN, I_OFFSET and V_OFFSET of rail `r` of die `n` (R683). -/
def railCalOf (d : Dev) (n r : Nat) : Int × Int × Int :=
  let l := (dieOf d n).calRail
  let u := kget d.railCal (n, r) (0, 0, 0)
  (calLimit 3 (fuseInt l (8 * r) 4 + u.1), calLimit 4 (fuseInt l (8 * r + 4) 2 + u.2.1), calLimit 5 (fuseInt l (8 * r + 6) 2 + u.2.2))

/-- The equaliser preset of lane `l` at a rate code: PRE, MAIN and POST (R683 to R685). -/
def presetOf (d : Dev) (l rate : Nat) : Int × Int × Int :=
  let x := laneOf d l
  let r := slice (dieOf d (l / 128)).calLane (16 * (5 * (l % 128) + rate)) 16
  (calLimit 0 (Config.presetTap r 0 + x.cfgPre), calLimit 0 (Config.presetTap r 1 + x.cfgMain),
    calLimit 0 (Config.presetTap r 2 + x.cfgPost))

/-- The timestamp latency of lane `l` in ps, for rate code `k`, or for PHY type `k - 4` from 5 on, with a user correction
(R683, R685). -/
def latencyOf (d : Dev) (l k : Nat) (tx : Bool) (user : Int) : Int :=
  calLimit 1 (fuseInt (dieOf d (l / 128)).calTs (152 * (l % 128) + 8 * k + if tx then 4 else 0) 4 + user)

def sliceOf (d : Dev) (n s : Nat) : Slice := (dieOf d n).slices.getD s {}

def onSlice (d : Dev) (n s : Nat) (f : Slice → Slice) : Dev :=
  onDie d n fun x => { x with slices := lmod x.slices s f }

def frameOf (d : Dev) (i : Nat) : Frame := (d.frames.find? fun f => f.id == i).getD {}

def onFrame (d : Dev) (i : Nat) (g : Frame → Frame) : Dev :=
  { d with frames := d.frames.map fun f => if f.id = i then g f else f }

def copyOf (d : Dev) (i : Nat) : Copy := (d.copies.find? fun c => c.id == i).getD {}

def onCopy (d : Dev) (i : Nat) (g : Copy → Copy) : Dev :=
  { d with copies := d.copies.map fun c => if c.id = i then g c else c }

def voqOf (d : Dev) (q : VoqKey) : Voq := kget d.voqs q {}

def onVoq (d : Dev) (q : VoqKey) (f : Voq → Voq) : Dev := { d with voqs := kput d.voqs q (f (voqOf d q)) }

def emit (d : Dev) (o : Out) : Dev := { d with out := o :: d.out }

/-- The next value that the device takes where the spec states none (log 18). -/
def takeUnstated (d : Dev) : Nat × Dev := ((Config.unstated d.unstated).toNat, { d with unstated := d.unstated + 1 })

/- Time (R499, R500). The unit is a sixteenth of a grain tick. -/

/-- 1 µs, 1 ms and 1 s in sixteenths of a grain tick. -/
def us : Nat := 12500
def ms : Nat := 12500000
def sec : Nat := 12500000000

/-- Sixteenths of a tick since the grain counters started; 0 before. -/
def sinceStart (d : Dev) : Nat := match d.grain0 with
  | none => 0
  | some g => d.now - g

/-- The grain counter, modulo 2^64 (R499). -/
def grainOf (d : Dev) : Nat := (sinceStart d / 16) % two64

/-- The action tick of k µs (R500). -/
def actionTick (k : Nat) : Nat := (3125 * k + 3) / 4

/-- The number of the latest action tick: the greatest k whose tick is at or before the grain count (R500). -/
def lastAction (d : Dev) : Nat := (sinceStart d / 16) * 4 / 3125

/-- The time of the last action tick, the sample on which its checks are judged (R519, R522). -/
def tickSample (d : Dev) : Nat := d.grain0.getD 0 + 16 * ceilDiv (lastAction d * 3125) 4

/-- A timer of length `len` that started at `start` has expired (R521). -/
def expired (d : Dev) (start len : Nat) : Bool := decide (start + len ≤ d.now)

/-- An event limited to one per `len` may be raised (R164 and its like). -/
def mayRaise (d : Dev) (last : Option Nat) (len : Nat) : Bool := match last with
  | none => true
  | some t => expired d t len

/-- Domain time at a sixteenth of a tick, in units of 2^-16 ns, rounded down (R501). -/
def domainTime (x : Domain) (t16 : Int) : Int :=
  x.offset + (t16 - 16 * (x.anchor : Int)) * 32 * (65536000000000 + x.rate) / 400000000000

/-- Domain time at the present grain tick (R501). -/
def domainNow (d : Dev) (k : Nat) : Int := domainTime (d.domains.getD k {}) (16 * (sinceStart d / 16) : Nat)

/-- Whole nanoseconds of a domain time, 64 bits (R502). -/
def wholeNs (t : Int) : Nat := unsignedOf 64 (t / 65536)

/- Host memory (R538; log entry 14). Unlisted bytes read as 0. -/

/-- Memory with byte `b` at `a`, in canonical form. -/
def memPut : List Host.Cell → Nat → Byte → List Host.Cell
  | [], a, b => if b = 0 then [] else [(a, b)]
  | (a', b') :: r, a, b =>
    if a < a' then (if b = 0 then (a', b') :: r else (a, b) :: (a', b') :: r)
    else if a = a' then (if b = 0 then r else (a, b) :: r)
    else (a', b') :: memPut r a b

/-- The byte at `a`. -/
def memGet : List Host.Cell → Nat → Byte
  | [], _ => 0
  | (a', b) :: r, a => if a = a' then b else memGet r a

/-- Canonical form: addresses strictly rising, every listed byte other than 0. -/
def Memory.wf : List Host.Cell → Bool
  | [] => true
  | [(_, b)] => b != 0
  | (a, b) :: (a', b') :: r => b != 0 && decide (a < a') && Memory.wf ((a', b') :: r)

/-- Bytes written from address `a` upward; addresses run modulo 2^64. -/
def memWrite (m : List Host.Cell) (a : Nat) : List Byte → List Host.Cell
  | [] => m
  | b :: r => memWrite (memPut m (a % two64) b) (a + 1) r

/-- `n` bytes read from address `a` upward. -/
def memRead (m : List Host.Cell) (a n : Nat) : List Byte := (List.range n).map fun i => memGet m ((a + i) % two64)

/-- Die `n` writes host memory, through its own endpoint and by function `fn` of it (R538). -/
def hostWrite (d : Dev) (n : Nat) (fn : Fn) (a : Nat) (l : List Byte) : Dev :=
  { d with
    mem := memWrite d.mem a l
    out := .hostWrite n fn a l :: d.out }

/- Counters (R317). -/

def counterOf (d : Dev) (n i : Nat) : Nat := kget (dieOf d n).counters i 0

def bump (d : Dev) (n i k : Nat) : Dev :=
  onDie d n fun x => { x with counters := kput x.counters i ((kget x.counters i 0 + k) % two64) }

/-- Add to a counter in the slot of a port, on the port's own die. -/
def bumpPort (d : Dev) (p off k : Nat) : Dev := bump d (dieOfPort p) (slotPort (localOf p) off) k

def bumpDie (d : Dev) (n off k : Nat) : Dev := bump d n (slotDie off) k

/- MSI-X vectors (R588 to R591). -/

def vecOf (x : Die) (fn : Fn) (v : Nat) : Vec := ((x.vecs.find? fun e => e.1 = fn ∧ e.2.1 = v).map (·.2.2)).getD {}

def setVec (x : Die) (fn : Fn) (v : Nat) (w : Vec) : Die :=
  { x with vecs := (fn, v, w) :: x.vecs.filter fun e => ¬(e.1 = fn ∧ e.2.1 = v) }

/-- Vector `v` sends its message, or keeps it while it is masked or within 1 µs of the last one (R589). -/
def sendVec (d : Dev) (n : Nat) (fn : Fn) (v : Nat) : Dev :=
  let w := vecOf (dieOf d n) fn v
  if w.masked || !mayRaise d w.lastAt us then onDie d n fun x => setVec x fn v { w with due := true }
  else emit (onDie d n fun x => setVec x fn v { w with p := 0, due := false, lastAt := some d.now })
    (.msix n fn v w.addr w.data)

/-- One more occurrence for vector `v`: P rises by 1 and the message goes when P reaches COUNT or TIME is 0 (R588,
R589). -/
def pulseVec (d : Dev) (n : Nat) (fn : Fn) (v : Nat) : Dev :=
  let w := vecOf (dieOf d n) fn v
  let w := { w with p := w.p + 1, since := if w.p = 0 then d.now else w.since }
  let d := onDie d n fun x => setVec x fn v w
  if w.p ≥ max w.count 1 || w.time == 0 then sendVec d n fn v else d

/-- The vector that a cause of INT_CAUSE signals (R588). -/
def causeVector (x : Die) (bit : Nat) : Nat :=
  if bit < 8 then (x.rings.getD bit {}).vector else if bit = intEvt then x.evt.vector else x.directVec

/-- The bits of INT_CAUSE that hardware has set in the present cycle (R17). -/
def freshCauses (d : Dev) (n : Nat) : BitVec 14 :=
  if (dieOf d n).causeAt = d.now then (dieOf d n).causeNew else 0

/-- What is left of an RW1C bit when `one` says that 1 is written to it at `now`: a bit that hardware set in that very
cycle stays set (R14, R17). -/
def writeOneClear (bit : Bool) (setAt : Option Nat) (now : Nat) (one : Bool) : Bool :=
  bit && (!one || setAt == some now)

/-- A cause occurs: its bit is set, and its vector is signalled when the cause is enabled (R588). -/
def setCause (d : Dev) (n bit : Nat) : Dev :=
  let b := BitVec.ofNat 14 (2 ^ bit)
  let new := freshCauses d n ||| b
  let d := onDie d n fun x => { x with
    cause := x.cause ||| b
    causeNew := new
    causeAt := d.now }
  let x := dieOf d n
  if bitOf x.intEn.toNat bit then pulseVec d n .pf0 (causeVector x bit) else d

/- Events (R569 to R571). -/

/-- The event ring of die `h` can take an entry now (R571, R568). -/
def evtRoom (d : Dev) (h : Nat) : Bool :=
  let x := dieOf d h
  alive d h && x.ready && x.pcieUp && x.evt.enable && !x.mbHalt && decide ((x.evt.write + two16 - x.evt.cons) % two16 < 1024)

/-- Write one entry to the event ring of die `h` (R569, R549). -/
def evtWrite (d : Dev) (h src code seq : Nat) (data : List Byte) : Dev :=
  let e := (dieOf d h).evt
  let phase := if (e.write / 1024) % 2 = 0 then 1 else 0
  let entry := leBytes 2 code ++ leBytes 1 src ++ leBytes 1 phase ++ leBytes 4 seq ++ leBytes 8 (grainOf d)
    ++ padTo 16 data
  let d := hostWrite d h .pf0 (e.base + 32 * (e.write % 1024)) entry
  setCause (onDie d h fun x => { x with evt := { x.evt with write := (x.evt.write + 1) % two16 } }) h intEvt

/-- The next SEQ of die `n`, and the die with it used (R569). -/
def nextSeq (d : Dev) (n : Nat) : Nat × Dev :=
  ((dieOf d n).seq, onDie d n fun x => { x with seq := (x.seq + 1) % two32 })

/-- Die `src` reports the events that it discarded for the ring of die `h`, once that ring has room (R571). -/
def tellLost (d : Dev) (h src : Nat) : Dev :=
  let k := kget (dieOf d src).lostEv h 0
  if k = 0 || !evtRoom d h || !alive d src then d
  else
    let s := nextSeq d src
    evtWrite (onDie s.2 src fun x => { x with lostEv := kdel x.lostEv h }) h src evLost s.1 (leBytes 4 k)

/-- Every die that discarded events for the ring of die `h` reports them (R571), and then each die that start-up found
lost is reported (R677). -/
def ringFreed (d : Dev) (h : Nat) : Dev := (List.range (dieCount d.part)).foldl (fun d src => tellLost d h src) d

/-- Die `src` raises an event (R569 to R571). A lost die raises none, and recovery boot writes none (R680). -/
def raise (d : Dev) (src code : Nat) (data : List Byte) : Dev :=
  if !alive d src || d.run == .recovery then d
  else
    let h := (dieOf d src).home
    let d := tellLost d h src
    let s := nextSeq d src
    let d := s.2
    if (dieOf d src).masked.contains code then d
    else if evtRoom d h then evtWrite d h src code s.1 data
    else bumpDie (onDie d src fun x => { x with lostEv := kput x.lostEv h (kget x.lostEv h 0 + 1) }) src cntEventLost 1

/- Drops (R321). -/

/-- Count one drop: the die slot, the slot of the drop port when that port is one of the die (a die counts in no other
die's counters, R22; log 15), and the slot of the charged tenant. -/
def countDrop (d : Dev) (n : Nat) (port tenant : Option Nat) (code bytes : Nat) : Dev :=
  let d := bumpDie (bumpDie d n (cntDieDropFrames + code) 1) n (cntDieDropBytes + code) bytes
  let d := match port with
    | some p => if dieOfPort p = n && alive d n then
        bumpPort (bumpPort d p (cntPortDropFrames + code) 1) p (cntPortDropBytes + code) bytes else d
    | none => d
  match tenant with
  | some t => bump d n (slotTenant t (cntTenDrop + code)) 1
  | none => d

end Sys2Proof.Machine
end

