-- ==== Sys2Proof/Machine/Operands.lean ====
section
/-! DEFINITION. The operand forms of Rontis commands: fields of the parameter area (R546), the checks that R553 orders,
and the description of one command that Rontis.lean executes. -/

namespace Sys2Proof.Machine

/-- Kinds of commands (R574). -/
inductive CmdKind where
  | w
  | l
  | r
  deriving DecidableEq, Repr

/-- The parameter field of `size` bytes at offset `off` (R546, R12). -/
def pf (p : BitVec 384) (off size : Nat) : Nat := bitsOf p.toNat (8 * off) (8 * size)

/-- The parameter bytes at offset `off`, in wire order. -/
def pbytes (p : BitVec 384) (off n : Nat) : List Byte := leBytes n (pf p off n)

/-- The signed parameter field of `size` bytes. -/
def ps (p : BitVec 384) (off size : Nat) : Int := signedOf (8 * size) (pf p off size)

/-- One check of a field: the offset of the field's first byte, whether it names a unit that the part does not have or
has lost, and whether it is wrong otherwise (R553). -/
structure Chk where
  off : Nat
  unsup : Bool
  bad : Bool
  deriving DecidableEq, Repr

/-- The field at `off` is wrong when `b` holds. -/
def badIf (off : Nat) (b : Bool) : Chk := ⟨off, false, b⟩

/-- Reserved bits `mask` of the `size`-byte field at `off` (R15). -/
def resv (p : BitVec 384) (off size mask : Nat) : Chk := badIf off (pf p off size &&& mask != 0)

/-- Reserved bytes. -/
def resB (p : BitVec 384) (off size : Nat) : Chk := badIf off (pf p off size != 0)

/-- A die number in one byte (R2, R3, R411). -/
def ckDie (d : Dev) (off n : Nat) : Chk := ⟨off, decide (n < 8) && !alive d n, decide (n ≥ 8)⟩

/-- A die mask that must not be 0 (R2, R411). -/
def ckMask (d : Dev) (off m : Nat) : Chk := ⟨off, (bitList 8 m).any fun n => !alive d n, m == 0⟩

/-- A global port ID in two bytes (R3, R6, R411). -/
def ckPort (d : Dev) (off p : Nat) : Chk :=
  ⟨off, decide (p < 1024) && !alive d (dieOfPort p), decide (p ≥ 1024) || decide (localOf p ≥ 96)⟩

/-- A time domain (R2, R8). -/
def ckDomain (d : Dev) (off k : Nat) : Chk := ⟨off, decide (k < 16) && decide (k ≥ domainCount d.part), decide (k ≥ 16)⟩

/-- A host address that must be a multiple of `a` (R539, R550). -/
def ckAlign (off a x : Nat) : Chk := badIf off (x % a != 0)

/-- The least offset in the list. -/
def minOff : List Nat → Option Nat
  | [] => none
  | a :: r => match minOff r with
    | none => some a
    | some b => some (min a b)

/-- The first cause among the field checks: UNSUPPORTED_ON_PART before BAD_ARG, the lowest offset first (R553). -/
def judgeFields (l : List Chk) : Option (Nat × Nat) :=
  match minOff ((l.filter (·.unsup)).map (·.off)) with
  | some o => some (stUnsupported, o)
  | none => (minOff ((l.filter (·.bad)).map (·.off))).map fun o => (stBadArg, o)

/-- Checks whose offsets are counted from another base. -/
def shiftChk (k : Nat) (l : List Chk) : List Chk := l.map fun c => { c with off := c.off + k }

/-- What a command answers: status, DETAIL, result area, and what its completion waits for. -/
structure Reply where
  status : Nat := stOk
  detail : Nat := 0
  result : List Byte := []
  wait : Option Wait := none

/-- One Rontis command with given parameters at a given state. `checks` judges the fields in offsets of the parameter
area; `guard`, `keepers` and `late` are the later steps of R553; `run` is its effect and its reply. -/
structure CmdSpec where
  opcode : Nat
  kind : CmdKind
  any : Bool := false
  wide : Bool := false
  checks : List Chk := []
  guard : Option Nat := none
  keepers : List Nat := []
  late : Option Nat := none
  record : List Byte := []
  run : Dev → Dev × Reply

/-- A reply with a result area. -/
def okResult (l : List Byte) : Reply := { result := l }

/-- The offsets where two fields are wrong together: the higher one (R550). -/
def badPair (a b : Nat) (wrong : Bool) : Chk := badIf (max a b) wrong

end Sys2Proof.Machine
end

