-- ==== Sys2Proof/Machine/Ports.lean ====
section
/-! DEFINITION. What ports have in common: the package's role, rates, the credit window, the ROLE announcement and the
return of a transmitter from electrical idle (R55, R66, R73, R105, R136 to R142, R382, R567). -/

namespace Sys2Proof.Machine

/- Queen-lease status (R567, R598). -/

/-- ROLE as SYS_INFO and LEASE_STAT report it. -/
def roleOf (d : Dev) : Nat := if !d.ha.paired then 0 else if d.ha.holder then 1 else 2

/-- The package acts as the holder of the queen lease (R567). -/
def isActive (d : Dev) : Bool := !d.ha.paired || d.ha.holder

def syncCode : Sync → Nat
  | .none => 0
  | .stale => 1
  | .resyncing => 2
  | .inSync => 3

/- Rates. -/

/-- Payload rate of a Spindle lane in Gb/s by rate code (R55). -/
def laneGbps (code : Nat) : Nat := [10, 25, 50, 100, 200].getD code 0

/-- Lane count, port rate in Gb/s and lane rate code of a PHY type (R66). -/
def phyType (code : Nat) : Nat × Nat × Nat :=
  [(0, 0, 0), (1, 10, 0), (1, 25, 1), (1, 50, 2), (4, 100, 1), (2, 100, 2), (1, 100, 3), (4, 200, 2), (2, 200, 3),
   (1, 200, 4), (8, 400, 2), (4, 400, 3), (2, 400, 4), (8, 800, 3), (4, 800, 4)].getD code (0, 0, 0)

/-- Lane rate code at which the lanes of a port run, under the configuration of their last bring-up (R85, R91). -/
def laneRate (q : Port) : Nat := if q.run.mode = 2 then (phyType q.run.rate).2.2 else q.rate

def isSpindle (d : Dev) (p : Nat) : Bool := (portOf d p).conf.mode == 1
def isEth (d : Dev) (p : Nat) : Bool := (portOf d p).conf.mode == 2

/-- Payload rate of a port in Gb/s (R55, R66). -/
def payloadGbps (d : Dev) (p : Nat) : Nat :=
  let q := portOf d p
  if q.conf.mode = 1 then q.conf.width * laneGbps q.rate else (phyType q.conf.rate).2.1

/-- WINDOW of a port, in credits (R382). -/
def windowOf (d : Dev) (p : Nat) : Nat := max 4 (ceilDiv (payloadGbps d p * 1500) 32768)

/-- The port's link is UP and its die runs. -/
def portUp (d : Dev) (p : Nat) : Bool := (portOf d p).link == .up && alive d (dieOfPort p)

/-- The peer link of a paired package: d0.p92, port ID 0x005C (R631). -/
def isPeerPort (d : Dev) (p : Nat) : Bool := d.ha.paired && p == 0x5C

/-- EPOCH that the package announces (R136, R137). -/
def epochOf (d : Dev) : Nat := if d.ha.paired then d.ha.epoch else 1

/-- ROLE that the package announces: 0 ACTIVE, 1 STANDBY (R137). -/
def roleSent (d : Dev) : Nat := if isActive d then 0 else 1

/- Sending on a link (R105, R138, R142). -/

/-- Time of a row by rate code (R55). -/
def rowTime (rate : Nat) : Nat := [80, 32, 16, 8, 4].getD rate 80

/-- An ordered set or frame goes out on a port; IDLE blocks follow while nothing else does (R105). -/
def emitOn (d : Dev) (p : Nat) (o : Out) : Dev := emit (emit d o) (.idle p)

/-- Send one ROLE row (R138). -/
def sendRole (d : Dev) (p : Nat) : Dev :=
  emitOn (onPort d p fun q => { q with roleAt := d.now }) p (.role p (roleSent d) (portOf d p).quiet (epochOf d))

/-- The new ROLE goes out for the first of its four times; the others follow 1 µs apart (R138). -/
def sendRoles (d : Dev) (p : Nat) : Dev := sendRole (onPort d p fun q => { q with roleLeft := 3 }) p

/-- Announce a change of ROLE, QUIET or EPOCH: the new ROLE is sent four times, 1 µs apart; an idle transmitter sends
none until it leaves idle (R138). -/
def announceRole (d : Dev) (p : Nat) : Dev :=
  if isSpindle d p && portUp d p && (portOf d p).power == .l0 then sendRoles d p
  else d

/-- IDLE blocks that each lane sends before the first ROLE after electrical idle (R142). -/
def wakeBlocks (q : Port) : Nat := if q.rate ≥ 2 then 480 else 128

/-- When a transmitter that leaves electrical idle now begins: at the next codeword boundary of its running count at rate
codes 2 to 4 (R142). The spec does not say where that count begins: the model counts codewords from the moment the link came UP
(DESIGN CHOICE, log 56). -/
def wakeStart (d : Dev) (q : Port) : Nat :=
  let t := 80 * rowTime q.rate
  if q.rate ≥ 2 then q.upAt + ceilDiv (d.now - q.upAt) t * t else d.now

/-- The IDLE blocks that a transmitter sends as it leaves electrical idle; frames follow them and the ROLE (R142). -/
def sendWake (d : Dev) (p : Nat) : Dev :=
  let q := portOf d p
  let t := wakeStart d q + wakeBlocks q * rowTime q.rate
  emit (onPort d p fun q => { q with txFrom := t, txBlk := 0, txBlkAt := t }) (.idleRun p (wakeBlocks q))

/-- Lane index of the next block that a port sends at time `t`: IDLE blocks have taken the places since its last frame
(R98, R105). -/
def txPlace (q : Port) (t : Nat) : Nat :=
  (q.txBlk + (t - q.txBlkAt) * q.conf.width / rowTime q.rate) % max 1 q.conf.width

/-- The blocks of a frame of `l` bytes, START and terminate or STOMP block included (R103). -/
def blockCount (l : Nat) : Nat := l / 8 + 2

/-- A frame of `l` bytes that began at `start` has gone out on a Spindle link: its blocks took their places (R98). -/
def tookPlaces (d : Dev) (p start l : Nat) : Dev :=
  onPort d p fun q => { q with
    txBlk := (txPlace q start + blockCount l) % max 1 q.conf.width
    txBlkAt := d.now }

/-- A transmitter in L1 returns to L0 and sends ROLE with QUIET 0 (R79, R142); one that is about to enter L1 stays and
takes its announcement back. -/
def leaveL1 (d : Dev) (p : Nat) : Dev :=
  let q := portOf d p
  let back := onPort d p fun q => { q with power := .l0, quiet := 0, l2Ask := none, lastTx := d.now }
  if q.power == .l1 then announceRole (sendWake back p) p
  else if q.power == .l0 && q.quiet != 0 then announceRole back p
  else d

/-- A port in L2 begins its exit: its transmitter leaves electrical idle and announces QUIET 0, and it retrains at its current
rate (R78, R142, R484). -/
def exitL2 (d : Dev) (p : Nat) : Dev :=
  let q := portOf d p
  if q.power == .l2 && q.wakeAt.isNone && q.link == .up then
    let d := onPort d p fun q => { q with wakeAt := some d.now, phase := .l2Train, phaseAt := d.now, quiet := 0, l2Ask := none }
    sendRoles (sendWake d p) p
  else d

/-- The device has something to send on a port: its transmitter leaves electrical idle, from L1 at once (R73, R484). -/
def wakeTx (d : Dev) (p : Nat) : Dev := exitL2 (leaveL1 d p) p

/-- The transmitter of a port is on (R73). -/
def txOn (d : Dev) (p : Nat) : Bool := (portOf d p).power == .l0

end Sys2Proof.Machine
end

