-- ==== Sys2Proof/Machine/Peer.lean ====
section
/-! DEFINITION. Peer frames: their bytes, the entries they carry, and how they leave on the peer link (R139, R155 to
R158, R646, R649). -/

namespace Sys2Proof.Machine

/-- The peer link is UP (R631). -/
def peerUp (d : Dev) : Bool := d.ha.paired && portUp d 0x5C

/-- LEASE in force: the holder's own, or on a non-holder that of the holder as last received (R634, R662). -/
def leaseNow (d : Dev) : Nat := if d.ha.holder then d.ha.inForce else d.ha.peerLease

/- Bytes (R156, R157). -/

/-- DA, SA and ETHERTYPE of a peer frame (R156). -/
def peerDa : List Byte := beBytes 6 0x024B4D504C00
def peerSa : List Byte := beBytes 6 0x024B4D504C01
def peerType : List Byte := beBytes 2 0x88B6

/-- A peer frame with `count` entries or records in `entries` (R156). -/
def peerFrame (d : Dev) (kind number seq received count : Nat) (entries : List Byte) : List Byte :=
  withFcs (peerDa ++ peerSa ++ peerType ++ leBytes 1 kind ++ leBytes 1 1
    ++ leBytes 2 (if d.ha.holder then d.ha.epoch else d.ha.seen) ++ leBytes 2 (leaseNow d) ++ leBytes 4 number
    ++ leBytes 8 d.serial0 ++ leBytes 4 d.fwVersion
    ++ leBytes 1 (atBit 0 d.ha.prefBit + atBit 1 d.ha.holder + 4 * syncCode d.ha.sync) ++ leBytes 3 0
    ++ leBytes 8 seq ++ leBytes 8 received ++ leBytes 4 count ++ leBytes 4 0 ++ entries)

/-- The bytes of a peer frame of kind RENEW, ANSWER, ANNOUNCE or RECEIPT (R156). -/
def peerBytes (d : Dev) (kind number seq received : Nat) : List Byte := peerFrame d kind number seq received 0 []

/-- KIND of a journal entry (R157); a pending action is a record of a snapshot alone. -/
def entryKind : JBody → Nat
  | .command .. => 1
  | .cancel .. => 2
  | .learn .. => 3
  | .macRemove .. => 4
  | .actionRun .. => 5
  | .dieLost .. => 6
  | .lease .. => 7
  | .action .. => 17

/-- The die that a command applies to, or 0xFF for every die: commands whose parameters name a die or a port apply to that
die (R157). -/
def commandDie (opcode : Nat) (p : BitVec 384) : Nat :=
  let byte0 := bitsOf p.toNat 0 8
  let half0 := bitsOf p.toNat 0 16
  if [0x0409, 0x0506, 0x0604, 0x0606].contains opcode then byte0
  else if [0x0201, 0x0203, 0x0204, 0x0206, 0x0503, 0x0709, 0x070D, 0x0710, 0x0711, 0x0712].contains opcode then dieOfPort half0
  else 0xFF

/-- DIE of an entry (R157). -/
def entryDie : JBody → Nat
  | .command opcode p _ => commandDie opcode p
  | .learn die .. => die
  | .macRemove die .. => die
  | .dieLost die => die
  | _ => 0xFF

/-- `l` filled with bytes of 0 to a multiple of 8 bytes. -/
def pad8 (l : List Byte) : List Byte := padTo (8 * ceilDiv l.length 8) l

/-- An entry or record as it lies in ENTRIES (R157). -/
def entryBytes (d : Dev) (seq kind die : Nat) (body : List Byte) : List Byte :=
  pad8 (leBytes 8 seq ++ leBytes 1 kind ++ leBytes 1 die ++ leBytes 2 body.length ++ leBytes 2 d.ha.epoch ++ leBytes 2 0
    ++ leBytes 8 (grainOf d) ++ body)

/-- A snapshot record as a frame of its own (R157, R652). -/
def recordFrame (d : Dev) (s kind die : Nat) (body : List Byte) : List Byte :=
  peerFrame d 6 0 s 0 1 (entryBytes d s kind die body)

/-- The snapshot of a bulk resynchronisation from SEQ `s`: `n` records of the package-wide configuration, the pending
scheduled actions, and every die's learned MAC entries (R652; log 57). -/
def snapshotFrames (d : Dev) (s n : Nat) : List (List Byte) :=
  (List.range n).map (fun k => recordFrame d s 16 0xFF (Config.configBody s k))
    ++ d.actions.map (fun a => recordFrame d s 17 0xFF (Config.entryBody (.action a.id a.domain a.t a.opcode a.params a.record)))
    ++ (aliveDies d).flatMap fun m => ((dieOf d m).mac.filter fun e => !e.2.static).map fun e =>
      recordFrame d s 18 m (Config.entryBody (.learn m e.2.key e.2.dest e.2.tenant e.1 e.2.group [] none))

/-- The JOURNAL frame of one entry; how many entries share a frame is open (R157; DESIGN CHOICE, log 57). -/
def journalFrame (d : Dev) (s : Nat) (b : JBody) : List Byte :=
  peerFrame d 5 0 s 0 1 (entryBytes d s (entryKind b) (entryDie b) (Config.entryBody b))

/-- A received peer frame, with the fields that a receiver judges (R156). -/
structure PeerHdr where
  epoch     : BitVec 16
  lease     : BitVec 16
  number    : BitVec 32
  serial    : BitVec 64
  fw        : BitVec 32
  preferred : Bool
  holder    : Bool
  sync      : Nat
  seq       : BitVec 64
  received  : BitVec 64
  deriving DecidableEq, Repr

/-- A journal entry: its SEQ and what it tells the standby (R157, R646). -/
structure JEntry where
  seq  : Nat
  body : JBody
  deriving DecidableEq, Repr

/-- A record of the bulk resynchronisation (R652): the SEQ that stood when it was read, and its content. `last` marks
the last record of the stream. -/
structure SnapRec where
  seq  : Nat
  body : JBody
  last : Bool
  deriving DecidableEq, Repr

/-- The fields of a received peer frame (R156). -/
def peerHdr (l : List Byte) : PeerHdr :=
  { epoch := BitVec.ofNat 16 (leAt l 16 2)
    lease := BitVec.ofNat 16 (leAt l 18 2)
    number := BitVec.ofNat 32 (leAt l 20 4)
    serial := BitVec.ofNat 64 (leAt l 24 8)
    fw := BitVec.ofNat 32 (leAt l 32 4)
    preferred := bitOf (leAt l 36 1) 0
    holder := bitOf (leAt l 36 1) 1
    sync := bitsOf (leAt l 36 1) 2 2
    seq := BitVec.ofNat 64 (leAt l 40 8)
    received := BitVec.ofNat 64 (leAt l 48 8) }

/-- KIND of a peer frame. -/
def peerKind (l : List Byte) : Nat := leAt l 14 1

/-- The KIND codes that entries of a peer frame of a kind may have (R157). -/
def entryKindOk (kind k : Nat) : Bool :=
  if kind = 5 then decide (1 ≤ k) && decide (k ≤ 7) else decide (16 ≤ k) && decide (k ≤ 18)

/-- The SEQs of `n` entries that fill `l` exactly, each with a KIND of its frame and with its reserved and padding bytes 0;
none otherwise (R157, R158). An entry whose own KIND is not in the table of R157 makes the frame bad: R158 names the KIND of
the frame alone (DESIGN CHOICE, log 57). -/
def walkEntries (kind : Nat) : Nat → List Byte → Option (List Nat)
  | 0, l => if l.isEmpty then some [] else none
  | n + 1, l =>
    let body := leAt l 10 2
    let size := 8 * ceilDiv (24 + body) 8
    if l.length < size || !entryKindOk kind (leAt l 8 1) || leAt l 14 2 != 0
        || ((l.take size).drop (24 + body)).any (· != 0) then none
    else (walkEntries kind n (l.drop size)).map (leAt l 0 8 :: ·)

/-- The bytes of ENTRIES of a peer frame. -/
def peerEntries (l : List Byte) : List Byte := (l.take (l.length - 4)).drop 64

/-- SEQs of the entries or records of a peer frame, when COUNT matches ENTRIES (R158). The other kinds have none. -/
def peerSeqs (l : List Byte) : Option (List Nat) :=
  if peerKind l = 5 || peerKind l = 6 then
    if leAt l 56 4 > l.length then none else walkEntries (peerKind l) (leAt l 56 4) (peerEntries l)
  else if leAt l 56 4 = 0 && (peerEntries l).isEmpty then some [] else none

/-- The DA, ETHERTYPE, FORMAT and KIND of a frame are those of R156, COUNT matches its entries, and every reserved byte is
0 (R158). -/
def peerLayout (l : List Byte) : Bool :=
  decide (l.length ≥ 68) && l.take 6 == peerDa && (l.drop 12).take 2 == peerType && leAt l 15 1 == 1
    && decide (1 ≤ peerKind l) && decide (peerKind l ≤ 6) && leAt l 37 3 == 0 && leAt l 60 4 == 0 && (peerSeqs l).isSome

/- Sending (R139, R156). -/

/-- The far end holds TC6 on the peer link; TC7 is never paused there (R156, R429, R439). -/
def peer6Paused (d : Dev) : Bool :=
  let q := portOf d 0x5C
  bitOf q.set.rxMask 6 && (q.rxPaused.any fun e => e.1 == 6 && decide (d.now < e.2)) && !q.ignore.any fun e => e.1 == 6

/-- The transmitter of the peer link can send frames, in thermal stop too: it is on, and the far end's ROLE has arrived
(R73, R139, R721). -/
def peerOpen (d : Dev) : Bool := peerUp d && txOn d 0x5C && (portOf d 0x5C).roleSeen && d.run == .running

/-- A peer frame leaves in class `tc` (R156). -/
def putPeer (d : Dev) (tc : Nat) (bytes : List Byte) : Dev :=
  let d := tookPlaces (onPort d 0x5C fun q => { q with lastTx := d.now }) 0x5C d.now bytes.length
  emitOn d 0x5C (.peer (startHeader (tc * 4096)) bytes)

/-- The journaled entry `s` is sent now (R649). -/
def noteSent (d : Dev) (s : Nat) : Dev :=
  { d with ha := { d.ha with buffer := d.ha.buffer.map fun e => if e.1 = s then (s, d.now) else e } }

/-- Peer frames that wait go out as far as the transmitter and the far end allow, TC7 ahead of TC6 (R156). -/
def drainPeer (d : Dev) : Dev :=
  if d.ha.q7.isEmpty && d.ha.q6.isEmpty then d
  else
    let d := wakeTx d 0x5C
    if !peerOpen d then d
    else
      let d := d.ha.q7.foldl (fun d l => putPeer d 7 l) { d with ha := { d.ha with q7 := [] } }
      if peer6Paused d then d
      else d.ha.q6.foldl (fun d e => putPeer (noteSent d e.1) 6 e.2) { d with ha := { d.ha with q6 := [] } }

/-- Send a peer frame of TC7 while the peer link is UP (R156). -/
def sendPeer (d : Dev) (kind number seq received : Nat) : Dev :=
  if peerUp d then drainPeer { d with ha := { d.ha with q7 := d.ha.q7 ++ [peerBytes d kind number seq received] } } else d

/-- Send peer frames of TC6, each with the SEQ of its journal entry or 0, while the peer link is UP (R156). -/
def sendBulk (d : Dev) (l : List (Nat × List Byte)) : Dev :=
  if peerUp d then drainPeer { d with ha := { d.ha with q6 := d.ha.q6 ++ l } } else d

end Sys2Proof.Machine
end

