-- ==== Sys2Proof/Machine/Rontis.lean ====
section
/-! DEFINITION. How Rontis commands travel (chapter 13): when a ring may start one, the order of refusals, the journal
of kind W commands, result areas and completions. -/

namespace Sys2Proof.Machine

/- Queen-lease status (R567, R598). -/

/-- LEASE_STAT without QUEEN_IN (R580, R567). -/
def leaseStat (d : Dev) : Nat :=
  (if d.ha.paired then d.ha.epoch else 0) * 65536 + atBit 6 d.ha.queenOut
    + atBit 5 (d.ha.paired && !d.ha.holder && d.ha.sync == .stale) + atBit 4 (d.ha.paired && d.ha.holder) + roleOf d

/-- A change of LEASE_STAT between two states sets INT_CAUSE.LEASE on every die (R599). -/
def leaseChange (before after : Dev) : Dev :=
  if leaseStat before = leaseStat after then after
  else (List.range (dieCount after.part)).foldl (fun d n => setCause d n intLease) after

/-- Two states at one instant, the second reached by an action that may change the lease. -/
def withLease (d : Dev) (f : Dev → Dev) : Dev := leaseChange d (f d)

def raiseHaStale (d : Dev) : Dev :=
  raise d 0 evHaStale (leBytes 1 (syncCode d.ha.sync) ++ leBytes 1 d.ha.cause ++ leBytes 6 0 ++ leBytes 8 d.ha.seq)

/- Completions (R546 to R551). -/

def ringOf (d : Dev) (n k : Nat) : Ring := (dieOf d n).rings.getD k {}

def onRing (d : Dev) (n k : Nat) (f : Ring → Ring) : Dev := onDie d n fun x => { x with rings := lmod x.rings k f }

/-- Write the result area and the completion of a command; none for a ring disabled since its fetch (R541, R560). -/
def writeCpl (d : Dev) (p : Pend) : Dev :=
  let r := ringOf d p.die p.ring
  if !r.enable || r.epoch != p.epoch || !alive d p.die then d
  else
    let res := padTo 64 p.result
    let toHost := p.raddr != 0 && p.raddr % 64 == 0
    let d := if toHost then hostWrite d p.die .pf0 p.raddr res else d
    let phase := if (r.write / 256) % 2 = 0 then 1 else 0
    let entry := leBytes 4 p.tag.toNat ++ leBytes 2 p.opcode ++ leBytes 1 p.status
      ++ leBytes 1 (phase + atBit 1 toHost) ++ leBytes 2 p.fetch ++ leBytes 1 p.ring ++ leBytes 1 p.die
      ++ leBytes 4 p.detail ++ res.take 16
    let d := hostWrite d p.die .pf0 (r.cplBase + 32 * (r.write % 256)) entry
    setCause (onRing d p.die p.ring fun r => { r with write := (r.write + 1) % two16 }) p.die p.ring

/-- A completion may be written: nothing to wait for, the mailbox channel and the Keeper run (R568, R566), and on a
holder with an IN_SYNC standby its entry has been received (R648). -/
def cplReady (d : Dev) (p : Pend) : Bool :=
  let x := dieOf d p.die
  p.wait.isNone && !x.mbHalt && x.keeper != .restarting
    && (p.seq == 0 || decide (p.seq ≤ d.ha.recvd) || d.ha.sync != .inSync)

/-- Write every held completion that may now be written, oldest first. -/
def flushPends (d : Dev) : Dev :=
  let go := d.pends.filter (cplReady d)
  go.foldl writeCpl { d with pends := d.pends.filter fun p => !cplReady d p }

/-- The waits for which `f` holds are over; `g` gives the final form of those completions. -/
def releasePends (d : Dev) (f : Wait → Bool) (g : Pend → Pend) : Dev :=
  flushPends { d with pends := d.pends.map fun p => if p.wait.any f then { g p with wait := none } else p }

/- The journal (R646 to R649). -/

/-- The holder marks its standby STALE, discards its journal buffer and stops journaling, or a standby finds itself
STALE; completions that waited for receipts are written, and a handover that has not fenced is given up (R648, R649,
R650, R663). -/
def markStale (d : Dev) (cause : Nat) : Dev :=
  withLease d fun d =>
    let d := raiseHaStale { d with ha := { d.ha with
      sync := .stale
      cause := cause
      staleAt := d.now
      buffer := []
      q6 := [] } }
    let d := if d.ha.holder && d.ha.handover then
        releasePends { d with ha := { d.ha with handover := false } } (· == .handover) fun p => { p with status := stStale }
      else d
    flushPends d

/-- A standby that was IN_SYNC or RESYNCING becomes STALE, as its holder or itself sees it (R649, R650). -/
def becomeStale (d : Dev) (cause : Nat) : Dev :=
  if d.ha.paired && (d.ha.sync == .inSync || d.ha.sync == .resyncing) then markStale d cause else d

/-- The holder journals for a standby that is IN_SYNC or RESYNCING. -/
def journaling (d : Dev) : Bool := d.ha.paired && d.ha.holder && (d.ha.sync == .inSync || d.ha.sync == .resyncing)

/-- Journal one entry (R646). An entry that would leave more than 65,536 entries unapplied marks the standby STALE
(R649). -/
def journal (d : Dev) (b : JBody) : Dev :=
  if !journaling d then d
  else if d.ha.buffer.length ≥ 65536 then markStale d 3
  else
    let s := d.ha.seq + 1
    let d := { d with ha := { d.ha with seq := s, buffer := d.ha.buffer ++ [(s, d.now)] } }
    sendBulk (bumpDie d 0 cntJournalTx 1) [(s, journalFrame d s b)]

/- Starting a command. -/

/-- Ring `k` of die `n` holds a command that may start: it is enabled, has a command to fetch and room for its
completion, and none of its own is in progress (R541 to R545, R555). -/
def ringReady (d : Dev) (n k : Nat) : Bool :=
  let r := ringOf d n k
  r.enable && r.fetch != r.prod && decide ((r.fetch + two16 - r.cons) % two16 < 256)
    && !(d.pends.any fun p => p.die == n && p.ring == k && p.epoch == r.epoch)

/-- No ring that comes before ring `k` in the rotating order holds a command (R556). -/
def turnOf (d : Dev) (n k : Nat) : Bool :=
  let last := (dieOf d n).cmdTurn
  (List.range 8).all fun j => !ringReady d n j || decide ((k + 7 - last) % 8 ≤ (j + 7 - last) % 8)

/-- The command is of a ring that the device may fetch from and start a command of now (R541 to R545, R555 to R557,
R568, R581). -/
def canStart (d : Dev) (c : Cmd) : Bool :=
  let x := dieOf d c.die
  alive d c.die && decide (c.ring < 8) && x.ready && x.pcieUp && (x.keeper == .running || x.keeper == .recovery)
    && !x.mbHalt && ringReady d c.die c.ring && turnOf d c.die c.ring
    && !(d.pends.any fun p => p.die == c.die && (p.fence || bitOf c.flags.toNat 0))

/-- The device fetches the command: FETCH rises by 1 (R540), and the rotating order goes on from its ring (R556). -/
def fetchCmd (d : Dev) (c : Cmd) : Dev :=
  onDie (onRing d c.die c.ring fun r => { r with fetch := (r.fetch + 1) % two16 }) c.die fun x => { x with cmdTurn := c.ring }

/-- The commands of recovery boot (R681): SYS_NOP, SYS_INFO, SEC_FLASH_STATUS, SEC_FW_WRITE, SEC_CFG_WRITE,
SEC_FUSE_READ and SEC_ATTEST. -/
def recoveryOps : List Nat := [0x0101, 0x0102, 0x0B04, 0x0B02, 0x0B03, 0x0B05, 0x0B01]

/-- Checks of the entry outside its parameter area (R546, R547): reserved bits of FLAGS, byte 3 and RESULT_ADDR. -/
def entryChecks (c : Cmd) (wide : Bool) : List Chk :=
  [badIf 2 (c.flags.toNat ≥ 2), badIf 3 (c.rsv != 0),
   badIf 8 (c.result.toNat % 64 != 0 || (wide && c.result == 0))]

/-- The dies among `l` whose Keeper is restarting, as a mask (R550). -/
def restartMask (d : Dev) (l : List Nat) : Nat :=
  maskOf 8 fun n => l.contains n && (dieOf d n).keeper == .restarting

/-- The later causes of R553, from step 4 on. -/
def lateRefusal (d : Dev) (sp : CmdSpec) : Option Reply :=
  if sp.kind = .w && (!isActive d || d.ha.handover) then some { status := stNotActive }
  else match sp.guard with
    | some st => some { status := st }
    | none =>
      let m := restartMask d sp.keepers
      if m ≠ 0 then some { status := stRestarting, detail := m * 65536 }
      else sp.late.map fun st => { status := st }

/-- Why the command is refused, if it is: the first cause in the order of R553. -/
def refusal (d : Dev) (c : Cmd) (sp : CmdSpec) : Option Reply :=
  if (c.die ≠ 0 && !sp.any) || (d.run == .recovery && !recoveryOps.contains sp.opcode) then some { status := stBadArg }
  else match judgeFields (entryChecks c sp.wide ++ shiftChk 16 sp.checks) with
    | some (st, o) => some { status := st, detail := o }
    | none => lateRefusal d sp

/-- The completion of a fetched command. -/
def mkPend (d : Dev) (c : Cmd) (opcode seq : Nat) (r : Reply) : Pend :=
  let k := ringOf d c.die c.ring
  { die := c.die, ring := c.ring, epoch := k.epoch, fence := bitOf c.flags.toNat 0, tag := c.tag, opcode := opcode,
    fetch := k.fetch, raddr := c.result.toNat, status := r.status, detail := r.detail, result := r.result, seq := seq,
    wait := r.wait }

/-- Complete a fetched command, now or when it may be. -/
def complete (d : Dev) (c : Cmd) (opcode seq : Nat) (r : Reply) : Dev :=
  let p := mkPend d c opcode seq r
  if cplReady d p then writeCpl d p else { d with pends := d.pends ++ [p] }

/-- A command of kind W takes its place in the commit order, is journaled and changes the package (R558, R646). -/
def commitCmd (d : Dev) (c : Cmd) (sp : CmdSpec) : Dev :=
  let d := if sp.kind = .w then journal d (.command sp.opcode c.params sp.record) else d
  let seq := if sp.kind = .w && journaling d then d.ha.seq else 0
  let x := sp.run d
  complete x.1 c sp.opcode seq x.2

/-- Execute one Rontis command: nothing happens when its ring cannot start it now, or when it is of kind W while the
mirror is being rebuilt (R617); else it is fetched, judged, carried out and completed. -/
def runCmd (sp : CmdSpec) (c : Cmd) (d : Dev) : Dev :=
  if !canStart d c then d
  else match refusal d c sp with
    | some r => complete (fetchCmd d c) c sp.opcode 0 r
    | none => if sp.kind = .w && !d.mirrorOk then d else commitCmd (fetchCmd d c) c sp

end Sys2Proof.Machine
end

