-- ==== Sys2Proof/Machine/Quota.lean ====
section
/-! DEFINITION. Package-wide tables, use and quotas of tenants (R159 to R191), and token buckets (R183, R299, R458). -/

namespace Sys2Proof.Machine

/-- A change of d0's master copy, and of its mirror when that is complete (R617). -/
def onMaster (d : Dev) (f : Tables → Tables) : Dev :=
  { d with
    master := f d.master
    mirror := if d.mirrorOk then f d.mirror else d.mirror }

/-- The same change of the package-wide tables on the dies `l` and in d0's master copy (R22, R23, R536). -/
def onTablesOf (l : List Nat) (d : Dev) (f : Tables → Tables) : Dev :=
  onDies (onMaster d f) l fun x => { x with tab := f x.tab }

/-- The same change of the package-wide tables on every die that is not lost, in ascending order (R172). -/
def onTables (d : Dev) (f : Tables → Tables) : Dev := onTablesOf (aliveDies d) d f

def tenantOf (t : Tables) (n : Nat) : Tenant := kget t.tenants n {}
def veOf (t : Tables) (v : Nat) : VeEntry := kget t.ves v {}
def bdOf (t : Tables) (b : Nat) : Bd := kget t.bds b {}

/- Entries with bad parity (R281). Tables by their code in EV_TBL_PARITY, entries by their place in the table (log 59). -/

def parBad (x : Die) (table i : Nat) : Bool := x.badPar.contains (table, i)

/-- The parity of an entry is good: it has been written. -/
def parGood (x : Die) (table i : Nat) : Die := { x with badPar := x.badPar.filter (· != (table, i)) }

/-- An endpoint entry as a die reads it: an entry with bad parity reads as invalid (R281). -/
def veRead (x : Die) (v : Nat) : VeEntry := if parBad x 0 v then {} else veOf x.tab v

/-- A bridge-domain record as a die reads it: one with bad parity reads as zeros (R281). -/
def bdRead (x : Die) (b : Nat) : Bd := if parBad x 4 b then {} else bdOf x.tab b
def groupOf (t : Tables) (g : Nat) : McGroup := kget t.groups g {}
def mirrorOf (t : Tables) (m : Nat) : Mirror := kget t.mirrors m {}

/-- The value of a quota or cap without limit (R179). -/
def noLimit : Nat := 0xFFFFFFFF

/-- One more unit is admitted: use plus 1 is at most the quota (R179). -/
def admits (quota use : Nat) : Bool := quota == noLimit || decide (use + 1 ≤ quota)

/-- Learned entries of a tenant on a die (R176). -/
def macUse (x : Die) (t : Nat) : Nat := (x.mac.filter fun e => !e.2.static && e.2.tenant == t).length

/-- OVER_QUOTA bits of a tenant on a die (R188, R472): comb, deep store, learned entries, energy. -/
def overBits (d : Dev) (n t : Nat) : Nat :=
  let x := dieOf d n
  let q := tenantOf x.tab t
  let above := fun quota use : Nat => quota != noLimit && decide (use > quota)
  atBit 0 (above q.comb (kget x.combUse t 0)) + atBit 1 (above q.store (kget x.storeUse t 0))
    + atBit 2 (above q.mac (macUse x t)) + atBit 3 (q.energy != noLimit && decide ((kget x.accts t {}).balance < 0))

def raiseOver (d : Dev) (n t bits : Nat) : Dev := raise d n evTenOverQuota (leBytes 2 t ++ leBytes 1 bits)

/-- A tenant that entered or left OVER_QUOTA on a die is reported, or waits for 10 ms after the last report (R188). -/
def checkOver (d : Dev) (n t : Nat) : Dev :=
  let o := kget (dieOf d n).overQ t {}
  let b := overBits d n t
  if b = o.bits then d
  else
    let now := mayRaise d o.last (10 * ms)
    let o := { o with bits := b, wait := !now, last := if now then some d.now else o.last }
    let d := onDie d n fun x => { x with overQ := kput x.overQ t o }
    if now then raiseOver d n t b else d

def checkOverDies (d : Dev) (t : Nat) : Dev := (aliveDies d).foldl (fun d n => checkOver d n t) d

/-- Whole grain ticks since the start of the grain counters, not wrapped. -/
def tickOf (d : Dev) : Nat := sinceStart d / 16

/-- A token bucket at a grain tick: it earns `rate` units a tick up to `depth` (R298, R299). -/
def fill (b : Bucket) (tick rate depth : Nat) : Bucket :=
  { tokens := min (b.tokens + rate * (tick - b.last : Nat)) depth, last := tick }

/-- Units of a byte bucket in one byte: a rate of 1 kb/s earns 1 unit a tick. -/
def byteUnit : Nat := 6250000
/-- Units of a frame bucket in one frame: a rate of 1 frame/s earns 1 unit a tick. -/
def frameUnit : Nat := 781250000

/-- Depth of the mirror limiter in bytes (R184). -/
def mirDepth (rate : Nat) : Nat := max 9728 (rate * 125)

def puntBucket (d : Dev) (x : Die) (t : Nat) : Bucket :=
  let q := tenantOf x.tab t
  fill (kget x.puntB t {}) (tickOf d) q.puntRate (q.puntBurst * frameUnit)

def mirBucket (d : Dev) (x : Die) (t : Nat) : Bucket :=
  let q := tenantOf x.tab t
  fill (kget x.mirB t {}) (tickOf d) (q.mirRate * 1000) (mirDepth q.mirRate * byteUnit)

/-- Take one punt token of a tenant on a die; none when it holds less than one (R183, R225). -/
def takePunt (d : Dev) (n t : Nat) : Option Dev :=
  let b := puntBucket d (dieOf d n) t
  if b.tokens < frameUnit then none
  else some (onDie d n fun x => { x with puntB := kput x.puntB t { b with tokens := b.tokens - frameUnit } })

/-- Take the mirror tokens of `bytes` bytes of a tenant on a die; none when too few are left (R184). -/
def takeMirror (d : Dev) (n t bytes : Nat) : Option Dev :=
  let b := mirBucket d (dieOf d n) t
  if b.tokens < (bytes * byteUnit : Nat) then none
  else some (onDie d n fun x => { x with mirB := kput x.mirB t { b with tokens := b.tokens - (bytes * byteUnit : Nat) } })

/-- A tenant record is replaced on a die: limiters start full when it becomes valid and lose tokens above a reduced
depth (R185, R189). -/
def putTenant (d : Dev) (n t : Nat) (q : Tenant) : Dev :=
  let x := dieOf d n
  let was := (tenantOf x.tab t).valid
  let cap := fun (b : Bucket) (depth : Nat) => if was then { b with tokens := min b.tokens depth } else
    { tokens := (depth : Int), last := tickOf d }
  let pb := cap (puntBucket d x t) (q.puntBurst * frameUnit)
  let mb := cap (mirBucket d x t) (mirDepth q.mirRate * byteUnit)
  onDie d n fun x => { x with
    tab := { x.tab with tenants := kput x.tab.tenants t q }
    puntB := kput x.puntB t pb
    mirB := kput x.mirB t mb }

end Sys2Proof.Machine
end

