-- ==== Sys2Proof/Machine/Tables.lean ====
section
/-! DEFINITION. The hashed tables (R247 to R279): HASH, placement and relocation, the MAC table with learning, aging and
eviction, and the LPM tables. -/

namespace Sys2Proof.Machine

/-- HASH of R248: CRC-32C with a seed. -/
def hashSeed (seed : Nat) (l : List Byte) : Nat := (l.foldl (crcByte 0x82F63B78) seed) ^^^ 0xFFFFFFFF

/- Placement in a table of two banks of `nb` buckets of 8 ways; `cand e b` is the candidate bucket of entry `e` in bank
b (R258 to R260). -/

section placement
variable {α : Type}

def tableIdx (nb bank bucket way : Nat) : Nat := bank * (nb * 8) + bucket * 8 + way

/-- Ways of a bucket that no entry holds, ascending. -/
def freeWays (nb : Nat) (t : List (Nat × α)) (bank bucket : Nat) : List Nat :=
  ((List.range 8).map (tableIdx nb bank bucket)).filter fun i => !(t.any fun e => e.1 == i)

/-- Entries of a bucket with their indices, by way. -/
def occupants (nb : Nat) (t : List (Nat × α)) (bank bucket : Nat) : List (Nat × α) :=
  ((List.range 8).map (tableIdx nb bank bucket)).filterMap fun i => (t.find? fun e => e.1 == i)

/-- Breadth-first search of a relocation chain: the frontier holds the moves so far, last first, and the bucket the last
occupant would move to (R259). Of the free ways of its bucket the last occupant takes the lowest (DESIGN CHOICE, log 59). -/
def chainSearch (nb : Nat) (cand : α → Nat → Nat) (t : List (Nat × α)) :
    Nat → List (List Nat × Nat × Nat) → Option (List Nat × Nat)
  | 0, _ => none
  | n + 1, frontier =>
    match firstSome (fun f => ((freeWays nb t f.2.1 f.2.2).head?).map fun w => (f.1, w)) frontier with
    | some r => some r
    | none => chainSearch nb cand t n (frontier.flatMap fun f =>
        ((occupants nb t f.2.1 f.2.2).filter fun e => !f.1.contains e.1).map fun e =>
          (e.1 :: f.1, 1 - f.2.1, cand e.2 (1 - f.2.1)))

/-- The moves of a chain in the order in which they are carried out, from its last move back to its first (R260). -/
def chainMoves : List Nat → Nat → List (Nat × Nat)
  | [], _ => []
  | i :: r, dst => (i, dst) :: chainMoves r i

/-- Where a new entry goes, and the moves that make room; none when no chain of at most 4 moves exists (R258, R259). -/
def placeAt (nb : Nat) (cand : α → Nat → Nat) (t : List (Nat × α)) (e : α) : Option (Nat × List (Nat × Nat)) :=
  let f0 := freeWays nb t 0 (cand e 0)
  let f1 := freeWays nb t 1 (cand e 1)
  match f0, f1 with
  | [], [] =>
    let first := (occupants nb t 0 (cand e 0)).map (fun o => ([o.1], 1, cand o.2 1))
      ++ (occupants nb t 1 (cand e 1)).map (fun o => ([o.1], 0, cand o.2 0))
    (chainSearch nb cand t 4 first).map fun r => (r.1.getLast?.getD 0, chainMoves r.1 r.2)
  | _, _ => some (if f1.length > f0.length then f1.head?.getD 0 else f0.head?.getD 0, [])

/-- An entry moves from one index to another (R260). -/
def moveEntry (t : List (Nat × α)) (m : Nat × Nat) : List (Nat × α) := t.map fun e => if e.1 = m.1 then (m.2, e.2) else e

end placement

/- The MAC table (R247 to R249). -/

/-- The 8 key bytes of BD and MAC (R248); `key` holds BD in [61:48] and the MAC in [47:0]. -/
def macKeyBytes (key : Nat) : List Byte := beBytes 6 (key % 2 ^ 48) ++ leBytes 2 (key / 2 ^ 48 % 16384)

def macKey (bd mac : Nat) : Nat := bd % 16384 * 2 ^ 48 + mac % 2 ^ 48

def macBucket (key bank : Nat) : Nat := hashSeed (if bank = 0 then 0xFFFFFFFF else 0x5A5AC3C3) (macKeyBytes key) % 16384

def macCand (e : MacEntry) (bank : Nat) : Nat := macBucket e.key bank

/-- The entry of a key and its index (R250). -/
def macFind (x : Die) (key : Nat) : Option (Nat × MacEntry) := x.mac.find? fun e => e.2.key == key

/-- A lookup of a key: an entry with bad parity misses (R250, R281). -/
def macLookup (x : Die) (key : Nat) : Option (Nat × MacEntry) :=
  x.mac.find? fun e => e.2.key == key && !parBad x 3 e.1

/-- The group bit of a MAC address: bit 0 of its first byte. -/
def isGroup (mac : Nat) : Bool := bitOf mac 40

/-- Candidates of R262: learned occupants of the two buckets, those of the new entry's tenant alone when there is one. -/
def victims (x : Die) (e : MacEntry) : List (Nat × MacEntry) :=
  let occ := (occupants 16384 x.mac 0 (macCand e 0) ++ occupants 16384 x.mac 1 (macCand e 1)).filter fun o => !o.2.static
  let own := occ.filter fun o => !e.static && o.2.tenant == e.tenant
  if own.isEmpty then occ else own

/-- OLDEST: the highest AGE, then ACT clear, then the lowest index (R262). -/
def older (a b : Nat × MacEntry) : Nat × MacEntry :=
  if a.2.age ≠ b.2.age then (if a.2.age > b.2.age then a else b)
  else if a.2.act ≠ b.2.act then (if a.2.act then b else a)
  else if a.1 < b.1 then a else b

/-- The victim of a die's EVICT mode, and the die after the choice; RANDOM takes a draw (R262). -/
def pickVictim (n : Nat) (x : Die) (l : List (Nat × MacEntry)) : Option (Nat × MacEntry) × Die :=
  match l with
  | [] => (none, x)
  | a :: r =>
    if x.evictOldest then (some (r.foldl older a), x)
    else (some (l.getD ((Config.draw16 n x.draws).toNat % l.length) a), { x with draws := x.draws + 1 })

/-- What an insertion does on a die. -/
structure MacPut where
  index : Nat
  moves : List (Nat × Nat)
  victim : Option Nat

/-- Insert a new entry on die `n` (R258 to R263): none when it finds no room. -/
def macInsert (d : Dev) (n : Nat) (e : MacEntry) : Option (MacPut × Dev) :=
  let x := dieOf d n
  match placeAt 16384 macCand x.mac e with
  | some (i, moves) => some (⟨i, moves, none⟩,
      onDie d n fun x => (i :: moves.map (·.2)).foldl (fun x i => parGood x 3 i)
        { x with mac := (i, e) :: moves.foldl moveEntry x.mac })
  | none =>
    let v := pickVictim n x (victims x e)
    match v.1 with
    | none => none
    | some (i, _) => some (⟨i, [], some i⟩,
        bumpDie (onDie d n fun _ => parGood { v.2 with mac := (i, e) :: v.2.mac.filter fun o => o.1 ≠ i } 3 i) n
          cntMacEvict 1)

/-- Remove the entries of a die for which `f` holds. -/
def macClear (x : Die) (f : MacEntry → Bool) : Die :=
  let gone := (x.mac.filter fun e => f e.2).map (·.1)
  { x with
    mac := x.mac.filter fun e => !f e.2
    badPar := x.badPar.filter fun b => !(b.1 == 3 && gone.contains b.2) }

/-- Remove the entry at an index. -/
def macDrop (d : Dev) (n i : Nat) : Dev :=
  onDie d n fun x => parGood { x with mac := x.mac.filter fun e => e.1 ≠ i } 3 i

/-- Rewrite the entry at an index. -/
def macWrite (d : Dev) (n i : Nat) (e : MacEntry) : Dev :=
  onDie d n fun x => parGood { x with mac := x.mac.map fun o => if o.1 = i then (i, e) else o } 3 i

/-- The quota of a tenant on a die admits one more learned entry (R179, R256). -/
def macAdmits (x : Die) (t : Nat) : Bool := admits (tenantOf x.tab t).mac (macUse x t)

/- Parity errors (R281). -/

/-- A parity error is counted, and reported at most once per second per table and die (R281). -/
def parityError (d : Dev) (n t index : Nat) : Dev :=
  let e := kget (dieOf d n).errModes t {}
  let d := bumpDie d n (cntTblParity + t) 1
  if mayRaise d e.parAt sec then
    raise (onDie d n fun x => { x with errModes := kput x.errModes t { e with parAt := some d.now } }) n evTblParity
      (leBytes 1 t ++ leBytes 3 0 ++ leBytes 4 index)
  else d

/-- Lookups of a die read entries whose parity has become bad: each is one parity error until it is repaired (R281; log
59). -/
def readBad (d : Dev) (n : Nat) (bad : List (Nat × Nat)) : Dev :=
  bad.foldl (fun d b => if b.1 > 4 || parBad (dieOf d n) b.1 b.2 then d
    else parityError (onDie d n fun x => { x with badPar := b :: x.badPar }) n b.1 b.2) d

/- The LPM tables (R269 to R275). -/

/-- Key bytes of a stored entry (R270). -/
def lpmKeyBytes (k : RouteKey) : List Byte :=
  leBytes 2 (k.vrf % 1024) ++ leBytes 1 k.len ++ beBytes (if k.family = 4 then 4 else 16) k.prefixN

def lpmBuckets (family : Nat) : Nat := if family = 4 then 32768 else 8192

def lpmSeed (family bank : Nat) : Nat :=
  if family = 4 then (if bank = 0 then 0x13579BDF else 0x2468ACE0) else (if bank = 0 then 0x0F1E2D3C else 0x4B5A6978)

def lpmCand (e : RouteKey × NextHop) (bank : Nat) : Nat :=
  hashSeed (lpmSeed e.1.family bank) (lpmKeyBytes e.1) % lpmBuckets e.1.family

/-- Bits of an address of the family. -/
def addrBits (family : Nat) : Nat := if family = 4 then 32 else 128

/-- The stored entries of one family of a die, by index. -/
def lpmTable (x : Die) (family : Nat) : List (Nat × (RouteKey × NextHop)) :=
  (x.lpm.filter fun e => e.1.1 == family).map fun e => (e.1.2, e.2)

def lpmFind (x : Die) (k : RouteKey) : Option NextHop := (x.lpm.find? fun e => e.2.1 = k).map (·.2.2)

/-- Place of a stored entry among the IPv4 and then the IPv6 entries of a die (R283). -/
def lpmPlace (family i : Nat) : Nat := if family = 4 then i else 524288 + i

/-- The stored entry that a probe reads, with its place. -/
def lpmProbe (x : Die) (k : RouteKey) : Option (Nat × NextHop) :=
  (x.lpm.find? fun e => e.2.1 = k).map fun e => (lpmPlace e.1.1 e.1.2, e.2.2)

/-- Places of a length bitmap and of a summary entry among the entries that share a parity counter (log 59). -/
def bitmapPlace (family vrf : Nat) : Nat := 0x10000 + 2 * vrf + (if family = 4 then 0 else 1)
def summaryPlace (family top : Nat) : Nat := 0x20000 + (if family = 4 then 0 else 0x10000) + top

/-- The top 16 bits of an address. -/
def topOf (family a : Nat) : Nat := a / 2 ^ (addrBits family - 16)

/-- The address cut to a length: every bit beyond it 0 (R270). -/
def cutAddr (family len a : Nat) : Nat := a / 2 ^ (addrBits family - len) * 2 ^ (addrBits family - len)

/-- Bit `l` of the length bitmap of a VRF; one with bad parity reads as all ones (R272). -/
def vrfHas (x : Die) (family vrf l : Nat) : Bool := parBad x 4 (bitmapPlace family vrf) || x.lpm.any fun e =>
  e.2.1.family == family && e.2.1.vrf == vrf && e.2.1.len == l

/-- Bit `l` of the summary entry of an address; one with bad parity reads as all ones (R272). -/
def summaryHas (x : Die) (family l a : Nat) : Bool := parBad x 4 (summaryPlace family (topOf family a)) || x.lpm.any fun e =>
  e.2.1.family == family && e.2.1.len == l && topOf family e.2.1.prefixN == topOf family a

/-- Candidate lengths, longest first (R273). -/
def lpmLengths (x : Die) (family vrf a : Nat) : List Nat :=
  ((List.range (addrBits family + 1)).filter fun l =>
    vrfHas x family vrf l && (decide (l < 16) || summaryHas x family l a)).reverse

/-- The probes of a lookup, longest candidate first, as the tables stand at its first pass: a TBL_ROUTE_SET between two
passes leaves the frame the result from before it (R274, R276). -/
def lpmProbes (x : Die) (family vrf a : Nat) : List (Option (Nat × NextHop)) :=
  (lpmLengths x family vrf a).map fun l => lpmProbe x ⟨vrf, family, l, cutAddr family l a⟩

/-- One pass of at most four probes: a route, and the probes left; an entry with bad parity misses (R274, R281). -/
def lpmPass (x : Die) (l : List (Option (Nat × NextHop))) : Option NextHop × List (Option (Nat × NextHop)) :=
  (firstSome (fun e => (e.filter fun e => !parBad x 1 e.1).map (·.2)) (l.take 4), l.drop 4)

/-- Store a route on a die: in place when its key is stored, else by placement; none when it does not fit (R258, R278,
R294). -/
def lpmStore (x : Die) (k : RouteKey) (h : NextHop) : Option Die :=
  if (lpmFind x k).isSome then
    some { x with lpm := x.lpm.map fun e => if e.2.1 = k then (e.1, k, h) else e }
  else
    let t := lpmTable x k.family
    (placeAt (lpmBuckets k.family) lpmCand t (k, h)).map fun r =>
      let t := (r.1, k, h) :: r.2.foldl moveEntry t
      { x with lpm := x.lpm.filter (fun e => e.1.1 ≠ k.family) ++ t.map fun e => ((k.family, e.1), e.2) }

/- The route compiler (R276 to R279). -/

/-- The prefix of a route covers that of a stored entry. -/
def covers (r e : RouteKey) : Bool :=
  r.vrf == e.vrf && r.family == e.family && decide (r.len ≤ e.len) && cutAddr r.family r.len e.prefixN == r.prefixN

/-- The prefixes of length `l` under a route. -/
def expandKeys (k : RouteKey) (l : Nat) : List RouteKey :=
  (List.range (2 ^ (l - k.len))).map fun i => { k with len := l, prefixN := k.prefixN + i * 2 ^ (addrBits k.family - l) }

/-- The entries that a route stores at length `l`: those that no longer route covers (R276, R277). -/
def storedKeys (routes : List (RouteKey × NextHop)) (k : RouteKey) (l : Nat) : List RouteKey :=
  (expandKeys k l).filter fun e => !routes.any fun r => decide (k.len < r.1.len) && covers r.1 e

/-- A route may be stored at length `l` (R277). -/
def mayExpand (routes : List (RouteKey × NextHop)) (k : RouteKey) (l : Nat) : Bool :=
  decide (k.len < l) && decide (l ≤ addrBits k.family)
    && ((decide (k.len < 16) && l == 16) || (decide (l ≤ k.len + 16) && decide ((storedKeys routes k l).length ≤ 256)))

/-- The entries of every route, with the stored lengths of the expanded ones. -/
def compiled (routes : List (RouteKey × NextHop)) (lens : List (RouteKey × Nat)) : List (RouteKey × NextHop) :=
  routes.flatMap fun r => (storedKeys routes r.1 (kget lens r.1 r.1.len)).map fun e => (e, r.2)

/-- Every entry of a compilation is stored: those that stand are rewritten in place, the others are placed by R258 to
R261; none when one finds no room (R271, R278). -/
def lpmAdd (l : List (RouteKey × NextHop)) (x : Die) : Option Die :=
  l.foldl (fun o e => o.bind fun x => lpmStore x e.1 e.2) (some x)

/-- The entries that a compilation does not ask for are invalidated. -/
def lpmTrim (l : List (RouteKey × NextHop)) (x : Die) : Die :=
  { x with lpm := x.lpm.filter fun e => l.any fun k => k.1 == e.2.1 }

/-- A die's tables come to hold exactly the entries of a compilation: the new ones are written before those that they
replace are invalidated, unless they have room only afterwards (R278); none when they do not fit. -/
def lpmSwap (l : List (RouteKey × NextHop)) (x : Die) : Option Die :=
  ((lpmAdd l x).map (lpmTrim l)).orElse fun _ => lpmAdd l (lpmTrim l x)

/-- A die's tables come to hold the entries of a compilation `l` that expands routes: first those of `kept`, the present
routes with the expansions that stay, and then every expanded entry is written before the entry that it replaces is
invalidated (R278, R279); none when they do not fit so. -/
def lpmFit (kept l : List (RouteKey × NextHop)) (x : Die) : Option Die :=
  (lpmSwap kept x).bind fun x => (lpmAdd l x).map (lpmTrim l)

/-- A die's tables with the entries of a compilation, in the order of `lpmFit`; entries of routes at their own lengths find
their room even where others have to be invalidated first (R278). -/
def lpmMove (kept l : List (RouteKey × NextHop)) (x : Die) : Die :=
  ((lpmFit kept l x).orElse fun _ => lpmSwap l x).getD (lpmTrim l x)

/-- The entries, bitmaps and summaries that a change of the stored entries has written have good parity again: every
entry whose place holds something else or that `own` says is rewritten, and every filter of the family (R282). -/
def lpmWritten (own : RouteKey → Bool) (family : Nat) (old x : Die) : Die :=
  let at' := fun (y : Die) i => (y.lpm.find? fun e => lpmPlace e.1.1 e.1.2 == i).map (·.2)
  let lens := fun (y : Die) i => (y.lpm.filter fun e => e.2.1.family == family && (bitmapPlace family e.2.1.vrf == i
    || summaryPlace family (topOf family e.2.1.prefixN) == i)).map fun e => e.2.1.len
  { x with badPar := x.badPar.filter fun b =>
      if b.1 = 1 then decide (at' old b.2 = at' x b.2) && !((at' x b.2).any fun e => own e.1)
      else b.1 != 4 || (lens old b.2).all (lens x b.2).contains && (lens x b.2).all (lens old b.2).contains }

/-- The expanded route with the most stored entries (R278). -/
def mostStored (routes : List (RouteKey × NextHop)) (lens : List (RouteKey × Nat)) : Option RouteKey :=
  (lens.foldl (fun o e =>
    let n := (storedKeys routes e.1 e.2).length
    match o with
    | none => some (e.1, n)
    | some (k, m) => some (if n > m then (e.1, n) else (k, m))) none).map (·.1)

/-- Expansions are withdrawn, those with the most stored entries first, until every die has room (R278). `kept` gives the
entries of the present routes with some expansions. -/
def fitLens (dies : List Die) (kept : List (RouteKey × Nat) → List (RouteKey × NextHop)) (routes : List (RouteKey × NextHop)) :
    Nat → List (RouteKey × Nat) → List (RouteKey × Nat)
  | 0, _ => []
  | n + 1, lens =>
    if dies.all fun x => (lpmFit (kept lens) (compiled routes lens) x).isSome then lens
    else match mostStored routes lens with
      | none => []
      | some k => fitLens dies kept routes n (kdel lens k)

end Sys2Proof.Machine
end

