-- ==== Sys2Proof/Machine/Images.lean ====
section
/-! DEFINITION. The SHADOW regions of the tables in host memory: sizes, contents, filling and the writes that follow a
change of a table (R283, R284). The layout of an image is internal to the device: its bytes are free values. -/

namespace Sys2Proof.Machine

/-- The bytes of an image of `n` bytes: of the entry with the fields `fields`, or of no valid entry (R283). -/
def imageBytes (n table : Nat) (fields : Option (List Nat)) : List Byte := padTo n (Config.image table fields)

/-- The fields of an endpoint entry, as an image holds them. -/
def veFields (e : VeEntry) : List Nat :=
  [e.tenant, e.port, e.bd, e.vrf, atBit 0 e.polEn, e.policer, atBit 0 e.mirIn.isSome, e.mirInS,
   atBit 0 e.mirEg.isSome, e.mirEgS, e.domain, atBit 0 e.learn, e.acct, e.cellCap]

/-- The fields of a stored route entry. -/
def lpmFields (e : RouteKey × NextHop) : List Nat :=
  [e.1.vrf, e.1.family, e.1.len, e.1.prefixN, atBit 0 e.2.drop, e.2.ve, e.2.mac]

/-- Bytes of one slice's part of the classifier region (R283). -/
def sliceRegion : Nat := 16384 * 128 + 2048

/-- Where the image of an index lies in the region of its table, and its size (R283). A classifier index counts slice by
slice. -/
def imageAt : (table i : Nat) → Nat × Nat
  | 0, i => (32 * i, 32)
  | 1, i => if i < 524288 then (16 * i, 16) else (524288 * 16 + 32 * (i - 524288), 32)
  | _, i => (i / 16384 * sliceRegion + i % 16384 * 128, 128)

/-- Indexes of a table that has a SHADOW region. -/
def shadowCount : Nat → Nat
  | 0 => 4096
  | 1 => 655360
  | _ => 65536

/-- What a table holds at an index: the fields of the valid entry there. -/
def entryFields (x : Die) : (table i : Nat) → Option (List Nat)
  | 0, i => if (veOf x.tab i).valid then some (veFields (veOf x.tab i)) else none
  | 1, i => (x.lpm.find? fun e => lpmPlace e.1.1 e.1.2 == i).map fun e => lpmFields e.2
  | _, i => (kget? x.rules (i / 16384, i % 16384)).map fun r => [r.key, r.mask, r.action]

/-- The byte of a slice's valid bitmap that holds an index: bit k is that of the k-th index of the byte (log 59). -/
def validByte (x : Die) (i : Nat) : Byte :=
  BitVec.ofNat 8 (((List.range 8).map fun k =>
    atBit k (kget? x.rules (i / 16384, i % 16384 / 8 * 8 + k)).isSome).sum)

/-- Write the image of one index of a table of die `n` into its region, and for a classifier rule its byte of the valid
bitmap, through PF0 of die `via`: that of d0, which received the command that changes the entry (R538), or the die's own
when the compare engine repairs an image (DESIGN CHOICE, log 14). -/
def writeImage (d : Dev) (via n table i : Nat) : Dev :=
  let x := dieOf d n
  let base := (kget x.errModes table {}).base
  let p := imageAt table i
  let d := hostWrite d via .pf0 (base + p.1) (imageBytes p.2 table (entryFields x table i))
  if table < 2 then d
  else hostWrite d via .pf0 (base + i / 16384 * sliceRegion + 16384 * 128 + i % 16384 / 8) [validByte x i]

/-- Fill the region of a table from the master copy (R284). -/
def fillRegion (d : Dev) (n table : Nat) : Dev :=
  (List.range (shadowCount table)).foldl (fun d i => writeImage d 0 n table i) d

/-- Indexes of a table that hold an entry on a die. -/
def usedPlaces (x : Die) : (table : Nat) → List Nat
  | 0 => x.tab.ves.map (·.1)
  | 1 => x.lpm.map fun e => lpmPlace e.1.1 e.1.2
  | _ => x.rules.map fun e => e.1.1 * 16384 + e.1.2

/-- A change of tables, with the images of what it changes on a die in SHADOW mode. The images are written before the
change is committed (R284); nothing reads the region between the two. -/
def shadowed (f : Dev → Dev) (d : Dev) : Dev :=
  let d' := f d
  (aliveDies d).foldl (fun d' n => (List.range 3).foldl (fun d' t =>
    let old := dieOf d n
    let new := dieOf d' n
    if !(kget new.errModes t {}).shadow then d'
    else (((usedPlaces old t ++ usedPlaces new t).eraseDups).filter fun i =>
      decide (entryFields old t i ≠ entryFields new t i)).foldl (fun d' i => writeImage d' 0 n t i) d') d') d'

end Sys2Proof.Machine
end

