-- ==== Sys2Proof/Machine/Parser.lean ====
section
/-! DEFINITION. The parser (R196 to R217): the walk over the headers of the parse window, the length checks, the
fragment limits, and the classifier key. -/

namespace Sys2Proof.Machine

/-- Kinds of headers that the parser recognises (R197), user slots included (R201). -/
inductive Hk where
  | eth
  | vlan
  | ip4
  | ip6
  | ext       -- Hop-by-Hop, Routing, Destination Options
  | frag6
  | ah
  | udp
  | tcp
  | vxlan
  | geneve
  | ptp
  | slot (n : Nat)
  deriving DecidableEq, Repr

/-- What the previous header says about the next one. -/
inductive Nx where
  | none
  | eth                 -- Ethernet, outer or inner
  | etype (t : Nat)
  | gtype (t : Nat)     -- Protocol Type of Geneve
  | proto (p : Nat) (v6 : Bool)
  | port (p : Nat)
  deriving DecidableEq, Repr

/-- The innermost IP header of the walk. -/
structure IpCtx where
  off : Nat
  v6 : Bool
  pay : Int             -- length of the UDP or TCP header and what follows it (R205)
  stop : Int            -- offset just after the IP packet
  frag : Bool
  first : Bool          -- first fragment of an IPv6 packet (R210)
  deriving DecidableEq, Repr

/-- The state of the walk. -/
structure Walk where
  hdrs : List (Hk × Nat) := []   -- headers reached with their offsets, in order
  depth : Bool := false
  conflict : Bool := false
  csum : Bool := false
  frag : Bool := false
  opt : Bool := false
  ext : Bool := false
  tunnel : Bool := false
  limit : Bool := false          -- DR_FRAGMENT_LIMIT (R210)
  need : List Nat := []          -- offsets that the bytes present must reach (checks against bytes present)
  trail : Option Nat := none     -- where the outermost IP packet ends (R206)
  ip : Option IpCtx := none
  udp : Option Int := none       -- UDP payload of the last UDP header
  ptpOut : Option Nat := none    -- first event message outside any tunnel
  deriving DecidableEq, Repr

def claimedTypes : List Nat := [0x8100, 0x88A8, 0x0800, 0x86DD, 0x88F7]

/-- IP protocols that a header of R197 claims. -/
def claimedProto (p : Nat) (v6 : Bool) : Bool := p == 17 || p == 6 || (v6 && [0, 43, 60, 44, 51].contains p)

/-- The lowest user slot in header mode that matches a next-protocol value (R201). -/
def slotFor (t : Tables) (kind v : Nat) : Option Nat :=
  (List.range 4).find? fun n =>
    let u := kget t.udfs n {}
    u.mode == 1 && u.matchKind == kind && u.matchValue == v

/-- The header that follows, at `pos` of the window `w`. With `blind`, the bytes that decide lie beyond the window, and
the value alone is judged (R199). A value that R197 claims for a header bars a user slot only in the context in which R197
claims it (R201; DESIGN CHOICE, log 58). -/
def recognise (t : Tables) (w : List Byte) (blind : Bool) (pos : Nat) (k : Nx) : Option Hk :=
  let b := byteAt w pos
  match k with
  | .none => none
  | .eth => some .eth
  | .etype v =>
    if v = 0x8100 ∨ v = 0x88A8 then some .vlan
    else if v = 0x0800 then (if blind || b / 16 == 4 then some .ip4 else none)
    else if v = 0x86DD then (if blind || b / 16 == 6 then some .ip6 else none)
    else if v = 0x88F7 then (if blind || b % 16 < 4 then some .ptp else none)
    else (slotFor t 0 v).map .slot
  | .gtype v =>
    if v = 0x6558 then some .eth
    else if v = 0x0800 then (if blind || b / 16 == 4 then some .ip4 else none)
    else if v = 0x86DD then (if blind || b / 16 == 6 then some .ip6 else none)
    else (slotFor t 0 v).map .slot
  | .proto p v6 =>
    if p = 17 then some .udp
    else if p = 6 then some .tcp
    else if v6 && (p == 0 || p == 43 || p == 60) then some .ext
    else if v6 && p == 44 then some .frag6
    else if v6 && p == 51 then some .ah
    else (slotFor t 1 p).map .slot
  | .port p =>
    if p = t.vxlanPort then some .vxlan
    else if p = t.genevePort then (if blind || b / 64 == 0 then some .geneve else none)
    else if p = 319 then (if blind || b % 16 < 4 then some .ptp else none)
    else (slotFor t 2 p).map .slot

/-- The length of a slot header (R202). -/
def slotLen (u : Udf) (w : List Byte) (pos : Nat) : Nat :=
  if u.lenMask = 0 then u.lenFixed
  else (((byteAt w (pos + u.lenOff)) &&& u.lenMask) >>> u.lenShift) * u.lenMul + u.lenAdd

/-- The length of a header (R197). -/
def hdrLen (t : Tables) (w : List Byte) (pos : Nat) : Hk → Nat
  | .eth => 14
  | .vlan => 4
  | .ip4 => max 20 (byteAt w pos % 16 * 4)
  | .ip6 => 40
  | .ext => (byteAt w (pos + 1) + 1) * 8
  | .frag6 => 8
  | .ah => (byteAt w (pos + 1) + 2) * 4
  | .udp => 8
  | .tcp => max 20 (byteAt w (pos + 12) / 16 * 4)
  | .vxlan => 8
  | .geneve => 8 + byteAt w pos % 64 * 4
  | .ptp => 34
  | .slot n => slotLen (kget t.udfs n {}) w pos

/-- The IPv4 header checksum is right: the 16-bit one's complement sum of the header is 0xFFFF (R207). -/
def ip4SumOk (w : List Byte) (pos len : Nat) : Bool :=
  let s := ((List.range (len / 2)).map fun i => be w (pos + 2 * i) 2).sum
  let s := s % 65536 + s / 65536
  s % 65536 + s / 65536 == 0xFFFF

/-- Some Geneve option runs past the options (R205). -/
def geneveBad (w : List Byte) (stop : Nat) : Nat → Nat → Bool
  | 0, _ => false
  | n + 1, off =>
    if off ≥ stop then false
    else
      let next := off + 4 + byteAt w (off + 3) % 32 * 4
      decide (next > stop) || geneveBad w stop n next

/-- Bytes of the upper-layer header that a first fragment must hold (R210). -/
def fragNeed : Nat → Nat
  | 17 => 8
  | 6 => 20
  | 58 => 4
  | _ => 0

/-- The walk learns the next-protocol value of an IPv6 header chain that ends at `pos` (R210). -/
def afterChain (k : Walk) (pos p : Nat) : Walk :=
  match k.ip with
  | some c =>
    let short := c.v6 && c.first && fragNeed p != 0 && decide (((pos + fragNeed p : Nat) : Int) > c.stop)
    { k with limit := k.limit || short }
  | none => k

/-- An IPv6 extension header of `len` bytes at `pos` joins the walk (R205). -/
def extJoin (k : Walk) (pos len : Nat) : Walk :=
  match k.ip with
  | some c => { k with
      ext := true
      conflict := k.conflict || decide (((pos + len : Nat) : Int) > c.stop)
      ip := some { c with pay := c.pay - (len : Nat) } }
  | none => k

/-- One recognised header joins the walk: its checks, and what follows it (R197, R201 to R210). The value that a user slot with
NEXT_KIND 2 gives selects IPv6 extension headers too when the last IP header reached is IPv6 (R202; DESIGN CHOICE, log 58). -/
def joinHdr (t : Tables) (w : List Byte) (pos len : Nat) (h : Hk) (k : Walk) : Walk × Nx :=
  let k := { k with hdrs := k.hdrs ++ [(h, pos)] }
  match h with
  | .eth => ({ k with udp := none }, .etype (be w (pos + 12) 2))
  | .vlan => (k, .etype (be w (pos + 2) 2))
  | .ip4 =>
    let ihl := byteAt w pos % 16
    let total := be w (pos + 2) 2
    let fo := be w (pos + 6) 2
    let mf := bitOf fo 13
    let off := fo % 8192
    let p := byteAt w (pos + 9)
    let pay : Int := (total : Int) - (ihl * 4 : Nat)
    let isFrag := mf || off != 0
    let small := decide (off = 0) && mf && ((p == 17 && decide (pay < 8)) || (p == 6 && decide (pay < 20)))
    let k := { k with
      conflict := k.conflict || decide (ihl < 5) || decide (total < ihl * 4)
      csum := k.csum || !ip4SumOk w pos len
      frag := k.frag || isFrag
      opt := k.opt || decide (ihl > 5)
      limit := k.limit || (p == 6 && off == 1) || small
      need := (pos + total) :: k.need
      trail := if k.trail.isNone then some (pos + total) else k.trail
      ip := some ⟨pos, false, pay, ((pos + total : Nat) : Int), isFrag, false⟩
      udp := none }
    (k, if ihl < 5 ∨ off ≠ 0 then .none else .proto p false)
  | .ip6 =>
    let pl := be w (pos + 4) 2
    let p := byteAt w (pos + 6)
    let k := { k with
      conflict := k.conflict || (pl == 0 && p != 59)
      need := (pos + 40 + pl) :: k.need
      trail := if k.trail.isNone then some (pos + 40 + pl) else k.trail
      ip := some ⟨pos, true, (pl : Int), ((pos + 40 + pl : Nat) : Int), false, false⟩
      udp := none }
    (k, .proto p true)
  | .ext =>
    let p := byteAt w pos
    (afterChain (extJoin k pos len) (pos + len) p, .proto p true)
  | .ah =>
    let p := byteAt w pos
    (afterChain (extJoin k pos len) (pos + len) p, .proto p true)
  | .frag6 =>
    let p := byteAt w pos
    let fo := be w (pos + 2) 2
    let k := extJoin { k with frag := true } pos len
    let k := { k with ip := k.ip.map fun c => { c with frag := true, first := decide (fo / 8 = 0) && bitOf fo 0 } }
    if fo / 8 ≠ 0 then (k, .none) else (afterChain k (pos + len) p, .proto p true)
  | .udp =>
    let l := be w (pos + 4) 2
    let bad := match k.ip with
      | some c => !c.frag && (decide (l < 8) || decide ((l : Int) ≠ c.pay))
      | none => decide (l < 8)
    ({ k with conflict := k.conflict || bad, udp := some ((l : Int) - 8) }, .port (be w (pos + 2) 2))
  | .tcp =>
    let n := byteAt w (pos + 12) / 16
    let bad := match k.ip with
      | some c => !c.frag && (decide (n < 5) || decide (((n * 4 : Nat) : Int) > c.pay))
      | none => decide (n < 5)
    ({ k with conflict := k.conflict || bad }, .none)
  | .vxlan =>
    ({ k with tunnel := true, conflict := k.conflict || decide (k.udp.getD 0 < 8) }, .eth)
  | .geneve =>
    let bad := decide (((len : Nat) : Int) > k.udp.getD 0) || geneveBad w (pos + len) 64 (pos + 8)
    ({ k with tunnel := true, conflict := k.conflict || bad, udp := none }, .gtype (be w (pos + 2) 2))
  | .ptp =>
    let l := be w (pos + 2) 2
    let k := { k with
      conflict := k.conflict || decide (l < 34) || (match k.udp with
        | some u => decide ((l : Int) > u)
        | none => false)
      need := if k.udp.isNone then (pos + l) :: k.need else k.need
      ptpOut := if k.ptpOut.isNone && !k.tunnel then some pos else k.ptpOut }
    (k, .none)
  | .slot n =>
    let u := kget t.udfs n {}
    if len < 4 then ({ k with conflict := true }, .none)
    else
      let v6 := match k.ip with
        | some c => c.v6
        | none => false
      (k, if u.nextKind = 1 then .etype (be w (pos + u.nextOff) 2)
        else if u.nextKind = 2 then .proto (byteAt w (pos + u.nextOff)) v6 else .none)

/-- The field by which a slot header names the next header reaches beyond byte 256 (R199, R202). -/
def nextBeyond (t : Tables) (pos len : Nat) : Hk → Bool
  | .slot n =>
    let u := kget t.udfs n {}
    u.nextKind != 0 && decide (len ≥ 4) && decide (pos + u.nextOff + (if u.nextKind = 1 then 2 else 1) > 256)
  | _ => false

/-- The walk over the headers (R198, R199). `stop` is where the frame ends without its FCS when that lies within the
window. Twelve headers at most are parsed. -/
def walk (t : Tables) (w : List Byte) (stop : Option Nat) : Nat → Nat → Nx → Walk → Walk
  | 0, _, _, k => k
  | fuel + 1, pos, nx, k =>
    if stop.any (fun e => decide (pos ≥ e)) then k
    else
      let blind := stop.isNone && decide (pos ≥ 256)
      match recognise t w blind pos nx with
      | none => k
      | some h =>
        let len := hdrLen t w pos h
        if blind || k.hdrs.length ≥ 12 || (stop.isNone && decide (pos + len > 256)) then { k with depth := true }
        else
          let r := joinHdr t w pos len h { k with need := (pos + len) :: k.need }
          if stop.isNone && nextBeyond t pos len h then { r.1 with depth := true }
          else walk t w stop fuel (pos + len) r.2 r.1

/-- What the parser finds in a frame: its descriptor fields, with the fragment-limit verdict (R210). -/
structure ParseResult where
  parsed : Parsed
  limit : Bool
  conflict : Bool
  csum : Bool
  depth : Bool
  frag : Bool
  opt : Bool
  trailer : Bool
  deriving DecidableEq, Repr

/-- Concatenate fields, the first highest: pairs of width and value. -/
def catBits (l : List (Nat × Nat)) : Nat := l.foldl (fun a f => a * 2 ^ f.1 + f.2 % 2 ^ f.1) 0

/-- Anchors of user slots (R234). -/
def anchorKind : Nat → Option Hk
  | 1 => some .eth
  | 2 => some .vlan
  | 3 => some .ip4
  | 4 => some .ip6
  | 5 => some .udp
  | 6 => some .tcp
  | 7 => some .vxlan
  | 8 => some .geneve
  | 9 => some .ptp
  | _ => none

/-- Offsets of the headers of one kind, in order. -/
def offsOf (l : List (Hk × Nat)) (h : Hk) : List Nat := (l.filter fun e => e.1 = h).map (·.2)

/-- The four bytes that slot `n` captures, if its header is present and they lie within the window (R203). Of a slot's
header that occurs more than once, the first is captured (DESIGN CHOICE, log 58). -/
def capture (t : Tables) (w : List Byte) (l : List (Hk × Nat)) (n : Nat) : Option Nat :=
  let u := kget t.udfs n {}
  let at' := if u.mode = 1 then (offsOf l (.slot n)).head?
    else if u.mode = 2 then (anchorKind (u.anchor % 16)).bind fun h => (offsOf l h)[u.anchor / 16 % 4 - 1]?
    else none
  at'.bind fun p => if p + u.capOff + 4 ≤ w.length then some (be w (p + u.capOff) 4) else none

/-- The class of a frame before classification (R215) on an Ethernet port: PCP_MAP of its outermost tag. -/
def pcpClass (q : PortSet) (tci : Option Nat) : Nat := match tci with
  | some v => q.pcpMap.getD (v / 8192 % 8) 0
  | none => q.tcDefault

/-- Parse the frame `bytes`, of length `len` when it has ended, that arrived on `port` for source VE `ve` with entry
`src`; `tcOf` gives its class from its outermost TCI (R215, R216). The outer tags are those directly after Ethernet: a user
slot ends them. KTYPE follows the first IP header reached, also where a user slot stands before it and UNKNOWN_L3 is set
(R216; DESIGN CHOICE, log 58). -/
def parse (t : Tables) (bytes : List Byte) (len : Option Nat) (port ve : Nat) (src : VeEntry)
    (tcOf : Option Nat → Nat) : ParseResult × Nat :=
  let stop := match len with
    | some l => if l ≤ 260 then some (l - 4) else none
    | none => none
  let w := bytes.take (stop.getD 256)
  let k := walk t w stop 13 0 .eth {}
  -- checks against the bytes present: header checks below 260 bytes, else tail checks (R204), which have been judged when
  -- the last byte came before the parser ran (R212)
  let now := match len with
    | some l => decide (l < 260)
    | none => false
  let present := (len.getD 0) - 4
  let above := len.isSome && k.need.any fun n => decide (n > present)
  let trailer := len.isSome && k.trail.any fun e => decide (e < present)
  let tails := if len.isSome then [] else (0, k.need.foldl max 0) :: (k.trail.toList.map fun e => (1, e))
  let conflict := k.conflict || above
  -- headers by role
  let outerTags := ((k.hdrs.drop 1).takeWhile fun e => e.1 = .vlan).map (·.2)
  let l3 := k.hdrs.find? fun e => e.1 = .ip4 || e.1 = .ip6
  let ktype : Nat := match l3 with
    | some (.ip4, _) => 1
    | some (.ip6, _) => 2
    | _ => 0
  let l3off := (l3.map (·.2)).getD 0
  let after := (k.hdrs.dropWhile fun e => !(e.1 = .ip4 || e.1 = .ip6)).drop 1
  let l4 := after.find? fun e => e.1 = .udp || e.1 = .tcp
  let sport := (l4.map fun e => be w e.2 2).getD 0
  let dport := (l4.map fun e => be w (e.2 + 2) 2).getD 0
  let tcpFlags := (l4.map fun e => if e.1 = .tcp then byteAt w (e.2 + 13) else 0).getD 0
  let chain := after.takeWhile fun e => e.1 = .ext || e.1 = .frag6 || e.1 = .ah
  let nh := match chain.getLast? with
    | some e => byteAt w e.2
    | none => byteAt w (l3off + 6)
  let vni := ((k.hdrs.find? fun e => e.1 = .vxlan || e.1 = .geneve).map fun e => be w (e.2 + 4) 3).getD 0
  let tci := outerTags.map fun p => be w p 2
  let etype := be w (12 + 4 * outerTags.length) 2
  let direct := ((k.hdrs.drop (1 + outerTags.length)).head?.map fun e => e.1 = .ip4 || e.1 = .ip6) == some true
  let unknown := !((etype == 0x0800 || etype == 0x86DD) && direct)
  let caps := (List.range 4).map fun n => capture t w k.hdrs n
  let udf := fun n => (caps.getD n none).getD 0
  let tc := tcOf tci.head?
  let pflags := atBit 15 k.depth + atBit 14 (k.conflict || (now && above)) + atBit 13 (now && trailer) + atBit 12 k.frag + atBit 11 k.opt
    + atBit 10 k.csum + atBit 9 k.ext + atBit 8 k.tunnel + atBit 7 (k.hdrs.any fun e => e.1 = .ptp) + atBit 6 unknown
    + min 3 outerTags.length * 16 + maskOf 4 fun n => (caps.getD n none).isSome
  let common := [(4, ktype), (12, ve), (10, src.tenant), (10, port), (14, src.bd), (10, src.vrf), (3, tc),
    (16, pflags), (1, 0)]
  let udfs := [(32, udf 0), (32, udf 1), (32, udf 2), (32, udf 3)]
  let macs := [(48, be w 0 6), (48, be w 6 6)]
  let rest := match ktype with
    | 1 => macs ++ [(16, tci.head?.getD 0), (32, be w (l3off + 12) 4), (32, be w (l3off + 16) 4),
        (8, byteAt w (l3off + 9)), (8, byteAt w (l3off + 1)), (16, sport), (16, dport), (8, tcpFlags), (24, vni)] ++ udfs
        ++ [(16, 0)]
    | 2 => [(128, be w (l3off + 8) 16), (128, be w (l3off + 24) 16), (8, nh), (8, be w l3off 2 / 16 % 256),
        (20, be w l3off 4 % 2 ^ 20), (16, sport), (16, dport), (8, tcpFlags), (32, udf 0), (32, udf 1), (4, 0)]
    | _ => macs ++ [(16, etype), (16, tci.head?.getD 0), (16, (tci.drop 1).head?.getD 0)] ++ udfs ++ [(128, 0)]
  let flow := match ktype with
    | 1 => slice w (l3off + 12) 8 ++ slice w (l3off + 9) 1 ++ beBytes 2 sport ++ beBytes 2 dport
    | 2 => slice w (l3off + 8) 32 ++ beBytes 1 nh ++ beBytes 2 sport ++ beBytes 2 dport
        ++ beBytes 3 (be w l3off 4 % 2 ^ 20)
    | _ => w.take 12
  ({ parsed := { ktype := ktype, pflags := pflags, key := catBits (common ++ rest), l3 := l3off, tailBad := tails,
                 ptp := k.ptpOut,
                 ptpUdp := k.ptpOut.bind fun p => ((k.hdrs.filter fun e => e.1 = .udp ∧ e.2 < p).getLast?).map (·.2),
                 dst4 := if ktype = 1 then be w (l3off + 16) 4 else if ktype = 2 then be w (l3off + 24) 16 else 0,
                 flow := flow },
     limit := k.limit, conflict := conflict, csum := k.csum, depth := k.depth, frag := k.frag, opt := k.opt,
     trailer := trailer }, tc)

end Sys2Proof.Machine
end

