-- ==== Sys2Proof/Machine/Slots.lean ====
section
/-! DEFINITION. Walks over tables and memories, and the slots that internal activities take of a die's tables and memory
ports (R264, R285, R490 to R493). -/

namespace Sys2Proof.Machine

/-- The pass that a walk is in: when the present one is over, the latest that has started, with the period configured
for it (R264, R285, R292). -/
def rollSweep (w : Sweep) (period now : Nat) : Sweep :=
  let next := w.at' + w.period * sec
  if now < next then w
  else { at' := next + (now - next) / (period * sec) * (period * sec), period := period, pos := 0 }

/-- When index `i` of `count` falls due in a pass (R264). -/
def sweepDue (w : Sweep) (count i : Nat) : Nat := w.at' + i * w.period * sec / count

/-- The pass in which a visit of index `i` is due now and not yet made. A visit that has waited beyond the end of its pass
is still made, until the visit of the next pass falls due (R264, R285). -/
def sweepAt (w : Sweep) (period count i now : Nat) : Option Sweep :=
  let ok := fun w : Sweep => decide (w.pos ≤ i) && decide (sweepDue w count i ≤ now)
    && decide (now < sweepDue w count i + w.period * sec)
  if ok w then some w else if ok (rollSweep w period now) then some (rollSweep w period now) else none

/-- The die learns and ages: it is not lost, and its package is ACTIVE or not paired (R253, R266, R647). -/
def learns (d : Dev) (n : Nat) : Bool := alive d n && isActive d

/-- A learn event of a die waits for a slot: P2 (R490). -/
def learnWaits (d : Dev) (n : Nat) : Bool := learns d n && !(dieOf d n).learnQ.isEmpty

/-- The pass of the aging sweep in which the visit of index `i` is due (R264). -/
def agingDue (x : Die) (now i : Nat) : Option Sweep := sweepAt x.ageSweep x.agePeriod 262144 i now

/-- An aging visit of a die whose due time meets `p` waits for a slot: P3 (R490). -/
def agingAny (d : Dev) (n : Nat) (p : Nat → Bool) : Bool :=
  learns d n && (dieOf d n).mac.any fun e => !e.2.static && !(dieOf d n).badPar.contains (3, e.1) &&
    (agingDue (dieOf d n) d.now e.1).any fun w => p (sweepDue w 262144 e.1)

/-- An aging visit of a die waits for a slot (R491). -/
def agingWaits (d : Dev) (n : Nat) : Bool := agingAny d n fun _ => true

/-- An aging visit of a die has been due for its full bound: it takes the next slot (R492). -/
def agingForced (d : Dev) (n : Nat) : Bool := agingAny d n fun t => expired d t (100 * ms)

/-- A forager line of a die has been due for `len`: P4 (R490, R606). -/
def foragerDue (d : Dev) (n len : Nat) : Bool :=
  alive d n && d.run == .running && (dieOf d n).walkAt.any fun t => expired d t len

/-- When the next snapshot falls due: snapshot n at T0 + n × INTERVAL, from n = 1 (R322). -/
def snapDue (k : Snap) : Nat := k.t0 + (k.n + 1) * k.interval * ms

/-- The home of a die's snapshots cannot write: a snapshot that falls due is skipped (R324, R620). -/
def snapBlocked (d : Dev) (n : Nat) : Bool :=
  (dieOf d (dieOf d n).snap.home).halted.contains 1 || !alive d (dieOf d n).snap.home

/-- A snapshot of a die has been due for its full bound: P5 (R490). -/
def snapForced (d : Dev) (n : Nat) : Bool :=
  alive d n && (dieOf d n).snap.enable && !snapBlocked d n && expired d (snapDue (dieOf d n).snap) (5 * ms)

/-- A forced unit of die `n` with a priority number below `p` waits: it goes first (R492). -/
def forcedBelow (d : Dev) (n p : Nat) : Bool :=
  (decide (3 < p) && agingForced d n) || (decide (4 < p) && foragerDue d n sec) || (decide (5 < p) && snapForced d n)

/-- Work of die `n` with a priority number below `p` waits (R491). -/
def waitsBelow (d : Dev) (n p : Nat) : Bool :=
  learnWaits d n || (decide (3 < p) && agingWaits d n) || (decide (4 < p) && foragerDue d n 0)

/-- The slot of a unit of die `n` with priority number `p`, 3 to 5, that fell due at `due` and may be deferred by `bound`
(R491 to R493). Once it has been due for its bound it takes a forced slot, which is counted, unless a forced unit of a lower
number waits. Before that it takes a slot only while the cap is not engaged and neither a forced unit nor work of a higher
priority waits. -/
def takeSlot (d : Dev) (n p due bound : Nat) : Option Dev :=
  if !expired d due 0 then none
  else if expired d due bound then (if forcedBelow d n p then none else some (bumpDie d n cntForcedSlot 1))
  else if d.pkg.engaged || forcedBelow d n 6 || waitsBelow d n p then none
  else some d

end Sys2Proof.Machine
end

