-- ==== Sys2Proof/Machine/Policing.lean ====
section
/-! DEFINITION. Policers, mirror sessions, tap rings, counters and snapshots (chapter 7): the judgement of a frame and
the commands. -/

namespace Sys2Proof.Machine

/- Policers (R297 to R304). -/

def policerOf (x : Die) (i : Nat) : Policer := kget x.pols i {}

/-- The policer with the tokens that its rates earn up to a tick (R299). -/
def polFill (q : Policer) (tick : Nat) : Policer :=
  { q with tc := fill q.tc tick q.cir (q.cbs * byteUnit), t2 := fill q.t2 tick q.pir (q.pbs * byteUnit) }

/-- Judge a frame of `b` bytes: its colour (0 green, 1 yellow, 2 red) and the buckets after it (R300, R301). -/
def polJudge (q : Policer) (b : Nat) : Nat × Policer :=
  let need : Int := b * byteUnit
  let takeC := { q with tc := { q.tc with tokens := q.tc.tokens - need } }
  let take2 := fun q : Policer => { q with t2 := { q.t2 with tokens := q.t2.tokens - need } }
  if q.mode = 0 then
    if q.t2.tokens < need then (2, q) else if q.tc.tokens < need then (1, take2 q) else (0, take2 takeC)
  else if q.tc.tokens ≥ need then (0, takeC) else if q.t2.tokens ≥ need then (1, take2 q) else (2, q)

/-- The byte count of a frame of length `l` (R300). -/
def polBytes (q : Policer) (l : Nat) : Nat := (max 1 ((l : Int) + q.adj)).toNat

/-- Police a frame of length `l` on a die: its colour, with the policer's counters (R300, R328). -/
def police (d : Dev) (n i l : Nat) : Nat × Dev :=
  let q := polFill (policerOf (dieOf d n) i) (tickOf d)
  let b := polBytes q l
  let r := polJudge q b
  let d := onDie d n fun x => { x with pols := kput x.pols i r.2 }
  (r.1, if q.cntEn then bump (bump d n (q.counter + 2 * r.1) 1) n (q.counter + 2 * r.1 + 1) b else d)

/-- The policer that POL_SET leaves at its commit tick (R304). -/
def polCommit (old : Policer) (p : BitVec 384) (tick : Nat) : Policer :=
  let q := polFill old tick
  let mode := bitsOf (pf p 1 1) 0 1
  let cbs := pf p 16 4
  let pbs := pf p 20 4
  let keep := fun (b : Bucket) (depth : Nat) => if mode = q.mode then { b with tokens := min b.tokens (depth * byteUnit : Nat) }
    else { b with tokens := (depth * byteUnit : Nat) }
  { mode := mode, redDrop := bitOf (pf p 1 1) 1, adj := ps p 4 1, cir := pf p 8 4, pir := pf p 12 4, cbs := cbs,
    pbs := pbs, counter := bitsOf (pf p 24 4) 0 20, cntEn := bitOf (pf p 24 4) 31, tc := keep q.tc cbs,
    t2 := keep q.t2 pbs }

/-- POL_SET takes effect on the named dies among `l` at one tick (R304). -/
def applyPolSet (l : List Nat) (p : BitVec 384) (d : Dev) : Dev :=
  let i := pf p 2 2
  onDies d ((bitList 8 (pf p 0 1)).filter l.contains) fun x =>
    { x with pols := kput x.pols i (polCommit (policerOf x i) p (tickOf d)) }

/-- POL_SET (R327, R328). -/
def specPolSet (d : Dev) (p : BitVec 384) : CmdSpec :=
  let cntEn := bitOf (pf p 24 4) 31
  let counter := bitsOf (pf p 24 4) 0 20
  { opcode := 0x0601, kind := .w, keepers := 0 :: bitList 8 (pf p 0 1),
    checks := [ckMask d 0 (pf p 0 1), resv p 1 1 0xFC, resv p 2 2 0xC000, resB p 5 3,
      badIf 8 (pf p 8 4 > 1600000000), badIf 12 (pf p 12 4 > 1600000000),
      badIf 12 (!bitOf (pf p 1 1) 0 && decide (pf p 12 4 < pf p 8 4)), badIf 16 (pf p 16 4 > 16777215),
      badIf 20 (pf p 20 4 > 16777215), resv p 24 4 0x7FF00000,
      badIf 24 (cntEn && (decide (counter ≥ generalCounters) || counter % 8 != 0)), resB p 28 4],
    run := fun d => (applyPolSet (aliveDies d) p d, {}) }

def execPolSet (c : Cmd) (s : State) : Host.Outcome State Fault Refusal :=
  onDev s fun d => runCmd (specPolSet d c.params) c d

/-- POL_GET: the settings, and the whole bytes in the two buckets now (R327). -/
def specPolGet (d : Dev) (p : BitVec 384) : CmdSpec :=
  let n := pf p 0 1
  let i := pf p 2 2
  { opcode := 0x0602, kind := .r, any := true, wide := true, keepers := [n],
    checks := [ckDie d 0 n, resB p 1 1, resv p 2 2 0xC000],
    run := fun d =>
      let q := polFill (policerOf (dieOf d n) i) (tickOf d)
      let whole := fun b : Bucket => leBytes 4 (b.tokens / byteUnit).toNat
      (d, okResult (leBytes 1 0 ++ leBytes 1 (q.mode + atBit 1 q.redDrop) ++ leBytes 2 i
        ++ leBytes 1 (unsignedOf 8 q.adj) ++ leBytes 3 0 ++ leBytes 4 q.cir ++ leBytes 4 q.pir ++ leBytes 4 q.cbs
        ++ leBytes 4 q.pbs ++ leBytes 4 (q.counter + atBit 31 q.cntEn) ++ leBytes 4 0 ++ whole q.tc ++ whole q.t2)) }

def execPolGet (c : Cmd) (s : State) : Host.Outcome State Fault Refusal :=
  onDev s fun d => runCmd (specPolGet d c.params) c d

/- Mirror sessions (R305, R312, R327, R329). -/

def mirrorOfParams (p : BitVec 384) : Mirror :=
  let flags := pf p 2 1
  { enable := bitOf flags 0, kind := pf p 1 1, vlan := bitOf flags 1, seqEn := bitOf flags 2, tc := pf p 3 1,
    trunc := pf p 4 2, port := pf p 6 2, tapDie := pf p 8 1, tapVf := pf p 9 1, proto := pf p 10 2,
    dmac := pbytes p 12 6, smac := pbytes p 18 6, tci := pf p 24 2, dscp := pf p 26 1, ttl := pf p 27 1,
    sip := pbytes p 28 4, dip := pbytes p 32 4 }

/-- MIR_SET writes the session on the dies `l`; a session that it enables starts its sequence number at 0 (R312). -/
def applyMirSet (l : List Nat) (p : BitVec 384) (d : Dev) : Dev :=
  let k := pf p 0 1
  let m := mirrorOfParams p
  let d := if m.enable && !(mirrorOf d.master k).enable then { d with mirSeq := kput d.mirSeq k 0 } else d
  onTablesOf l d fun t => { t with mirrors := kput t.mirrors k m }

/-- MIR_SET (R327, R329): every field in its range, and 0 where the kind does not use it. -/
def specMirSet (d : Dev) (p : BitVec 384) : CmdSpec :=
  let kind := pf p 1 1
  let port := ckPort d 6 (pf p 6 2)
  let tap := ckDie d 8 (pf p 8 1)
  let trunc := pf p 4 2
  let gre := kind == 1
  let isTap := kind == 2
  let onlyGre := fun off n => badIf off (!gre && pf p off n != 0)
  { opcode := 0x0603, kind := .w, keepers := aliveDies d,
    checks := [resv p 0 1 0xF0, badIf 1 (kind > 2), resv p 2 1 0xF8, badIf 2 (!gre && pf p 2 1 &&& 6 != 0),
      badIf 3 (pf p 3 1 > 7), badIf 4 (trunc != 0 && (decide (trunc < 60) || decide (trunc > 9724))),
      ⟨6, !isTap && port.unsup, if isTap then pf p 6 2 != 0 else port.bad⟩,
      ⟨8, isTap && tap.unsup, if isTap then tap.bad else pf p 8 1 != 0⟩,
      badIf 9 (if isTap then decide (pf p 9 1 > 63) else pf p 9 1 != 0), badIf 10 (gre != (pf p 10 2 != 0)),
      onlyGre 12 6, onlyGre 18 6, onlyGre 24 2, onlyGre 26 1, resv p 26 1 0xC0, badIf 27 (gre != (pf p 27 1 != 0)),
      onlyGre 28 4, onlyGre 32 4, resB p 36 4],
    run := fun d => (applyMirSet (aliveDies d) p d, {}) }

def execMirSet (c : Cmd) (s : State) : Host.Outcome State Fault Refusal :=
  onDev s fun d => runCmd (specMirSet d c.params) c d

/-- A punt or tap ring is set up and enabled, which empties it, or disabled (R238, R330, R593). One that is
enabled already is set up anew in the same way (DESIGN CHOICE, log 58). -/
def setPRing (d : Dev) (n : Nat) (r : PRing) (on : Bool) (log2 tenant cpl b0 b1 b2 : Nat) : Dev :=
  onDie d n fun x =>
    let old := kget x.pRings r {}
    let new : PuntRing := if on then
        { enable := true, log2 := log2, tenant := tenant, cplBase := cpl, poolBase := [b0, b1, b2],
          overrun := old.overrun, overrunAt := old.overrunAt }
      else { old with enable := false, tenant := tenant }
    { x with pRings := kput x.pRings r new }

/-- MIR_TAP_SET (R327, R330). -/
def specMirTapSet (d : Dev) (p : BitVec 384) : CmdSpec :=
  let n := pf p 0 1
  let vf := pf p 1 1
  let log2 := pf p 2 1
  let t := pf p 4 2
  { opcode := 0x0604, kind := .w, keepers := [0, n],
    checks := [ckDie d 0 n, resv p 1 1 0x40, badIf 2 (decide (log2 < 8) || decide (log2 > 16)), resB p 3 1,
      resv p 4 2 0xFC00, badIf 4 (!(tenantOf d.master t).valid), resB p 6 2, ckAlign 8 4096 (pf p 8 8),
      ckAlign 16 4096 (pf p 16 8), ckAlign 24 4096 (pf p 24 8), ckAlign 32 4096 (pf p 32 8)],
    run := fun d => (setPRing d n (.tap (bitsOf vf 0 6)) (bitOf vf 7) log2 t (pf p 8 8) (pf p 16 8) (pf p 24 8)
      (pf p 32 8), {}) }

def execMirTapSet (c : Cmd) (s : State) : Host.Outcome State Fault Refusal :=
  onDev s fun d => runCmd (specMirTapSet d c.params) c d

/- Counters (R317, R331, R332). -/

/-- CNT_READ (R327, R331): each counter once, in ascending index, to the buffer or into the result. -/
def specCntRead (via : Nat) (d : Dev) (p : BitVec 384) : CmdSpec :=
  let n := pf p 0 1
  let i := pf p 4 4
  let k := pf p 8 4
  let buf := pf p 16 8
  { opcode := 0x0605, kind := .r, any := true, keepers := [n],
    checks := [ckDie d 0 n, resB p 1 3, resv p 4 4 0xFFF00000, badIf 8 (k == 0 || decide (i + k > 1048576)),
      resB p 12 4, badIf 16 (buf % 8 != 0 || (buf == 0 && k != 1))],
    run := fun d =>
      if buf = 0 then (d, okResult (leBytes 8 (counterOf d n i)))
      else (hostWrite d via .pf0 buf ((List.range k).flatMap fun j => leBytes 8 (counterOf d n (i + j))), {}) }

/-- CNT_CLEAR (R332): counters of the general region become 0. -/
def specCntClear (d : Dev) (p : BitVec 384) : CmdSpec :=
  let n := pf p 0 1
  let i := pf p 4 4
  let k := pf p 8 4
  { opcode := 0x0606, kind := .w, keepers := [0, n],
    checks := [ckDie d 0 n, resB p 1 3, resv p 4 4 0xFFF00000, badIf 4 (decide (i ≥ generalCounters)),
      badIf 8 (k == 0 || decide (i + k > generalCounters))],
    run := fun d => (onDie d n fun x => { x with
      counters := x.counters.filter fun e => !(decide (i ≤ e.1) && decide (e.1 < i + k)) }, {}) }

def execCntClear (c : Cmd) (s : State) : Host.Outcome State Fault Refusal :=
  onDev s fun d => runCmd (specCntClear d c.params) c d

/- Snapshots (R322 to R324, R333). -/

def snapRange (p : BitVec 384) (off : Nat) : Nat × Nat := (pf p off 4, pf p (off + 4) 4)

/-- CNT_SNAP_SET (R327, R333). -/
def specCntSnapSet (d : Dev) (p : BitVec 384) : CmdSpec :=
  let n := pf p 0 1
  let home := pf p 3 1
  let r1 := snapRange p 16
  let r2 := snapRange p 24
  let r3 := snapRange p 32
  let past := fun r : Nat × Nat => decide (r.1 + r.2 > 1048576)
  let hi := fun off => badIf off (pf p off 4 ≥ 1048576)
  { opcode := 0x0607, kind := .l, any := true, keepers := [n, home],
    checks := [ckDie d 0 n, resv p 1 1 0xFC, badIf 2 (decide (pf p 2 1 < 2) || decide (pf p 2 1 > 16)),
      ckDie d 3 home, badIf 4 (decide (pf p 4 4 < 10) || decide (pf p 4 4 > 3600000)), ckAlign 8 4096 (pf p 8 8),
      hi 16, badIf 16 (r1.2 == 0 || past r1), hi 24, badIf 24 (past r2 || decide (r1.2 + r2.2 > 1048576)), hi 32,
      badIf 32 (past r3 || (r3.2 != 0 && (r2.2 == 0 || decide (r1.2 + r2.2 + r3.2 > 1048576))))],
    run := fun d =>
      let new : Snap :=
        { enable := bitOf (pf p 1 1) 0, event := bitOf (pf p 1 1) 1, nbuf := pf p 2 1, home := home,
          interval := pf p 4 4, base := pf p 8 8, ranges := [r1, r2, r3].filter (·.2 != 0), t0 := d.now }
      (onDie d n fun x => { x with snap := new }, {}) }

def execCntSnapSet (c : Cmd) (s : State) : Host.Outcome State Fault Refusal :=
  onDev s fun d => runCmd (specCntSnapSet d c.params) c d

/-- The bytes of a snapshot buffer (R323): header, counters and SEQ_END, all read at one instant. -/
def snapBytes (d : Dev) (n seq flags : Nat) (k : Snap) : List Byte :=
  let count := (k.ranges.map (·.2)).sum
  leBytes 8 seq ++ leBytes 8 (grainOf d) ++ leBytes 8 (grainOf d) ++ leBytes 1 n ++ leBytes 1 k.ranges.length
    ++ leBytes 2 flags ++ leBytes 4 count ++ leBytes 4 k.interval ++ leBytes 28 0
    ++ (k.ranges.flatMap fun r => (List.range r.2).flatMap fun j => leBytes 8 (counterOf d n (r.1 + j)))
    ++ leBytes 8 seq

/-- Distance between two snapshot buffers (R323). -/
def snapStride (k : Snap) : Nat := ceilDiv (72 + 8 * (k.ranges.map (·.2)).sum) 4096 * 4096

/-- A snapshot falls due and is written through its home, or skipped while the counter channel is halted (R322, R324,
R620, R621). Its bound is 5 ms, and one that starts at its bound takes a forced slot (R490, R492, R493). -/
def execSnapshotDue (die : Nat) (s : State) : Host.Outcome State Fault Refusal :=
  onDev s fun d =>
    let k := (dieOf d die).snap
    if !alive d die || !k.enable || !expired d (snapDue k) 0 then d
    else if snapBlocked d die then onDie d die fun x => { x with snap := { k with n := k.n + 1, skipped := true } }
    else match takeSlot d die 5 (snapDue k) (5 * ms) with
    | none => d
    | some e =>
      let seq := k.s + 1
      let flags := atBit 0 (decide (snapDue k + ms < d.now)) + atBit 1 k.skipped
      let d := hostWrite e k.home .pf1 (k.base + snapStride k * ((seq - 1) % k.nbuf)) (snapBytes d die seq flags k)
      let d := onDie d die fun x => { x with snap := { k with n := k.n + 1, s := seq, skipped := false } }
      if k.event then raise d die evCntSnap (leBytes 8 seq) else d

end Sys2Proof.Machine
end

