-- ==== Sys2Proof/Machine/Classifier.lean ====
section
/-! DEFINITION. The classifier: matching, and the CLS_ commands (R218 to R238). -/

namespace Sys2Proof.Machine

/- Power state of slices as commands and frames wake them (R485). -/

/-- A wake of a slice is counted by the state it leaves (R485). -/
def countWake (d : Dev) (n s : Nat) : Dev :=
  match (sliceOf d n s).pow with
  | .on => d
  | .retention => bump d n (slotSlice s cntSliceWakeRet) 1
  | .off => bump d n (slotSlice s cntSliceWakeOff) 1

/-- A wake cause: the slice is ON from now (R485). A package that does not hold the lease keeps its slices parked
(R654), and a parked die or thermal stop keeps them OFF (R489, R721). -/
def wakeSlice (d : Dev) (n s : Nat) : Dev :=
  if !isActive d || (dieOf d n).parked || d.thermal then d
  else onSlice (countWake d n s) n s fun x => { x with pow := .on, idleAt := d.now }

/-- The rules of a slice as it reads them: one with bad parity reads as invalid (R281). -/
def rulesOf (x : Die) (s : Nat) : List (Nat × Rule) :=
  (x.rules.filter fun e => e.1.1 == s && !parBad x 2 (s * 16384 + e.1.2)).map fun e => (e.1.2, e.2)

/-- The rule matches the key (R218). -/
def ruleHit (k : Nat) (r : Rule) : Bool := ((r.key ^^^ k) &&& r.mask) == 0

/-- The winning rule of a key in a slice: the valid match of the lowest index (R218). -/
def classify (x : Die) (s key : Nat) : Option (Nat × Rule) :=
  ((rulesOf x s).filter fun e => ruleHit key e.2).foldl (fun best e => match best with
    | some b => if e.1 < b.1 then some e else some b
    | none => some e) none

/- Fields of ACTION (R219). -/
def actDisp (a : Nat) : Nat := bitsOf a 0 3
def actRing (a : Nat) : Nat := bitsOf a 3 4
def actTc (a : Nat) : Option Nat := if bitOf a 7 then some (bitsOf a 8 3) else none
def actPol (a : Nat) : Option Nat := if bitOf a 11 then some (bitsOf a 12 14) else none
def actMir (a : Nat) : Option Nat := if bitOf a 26 then some (bitsOf a 27 4) else none
def actCnt (a : Nat) : Option Nat := if bitOf a 31 then some (bitsOf a 32 20) else none
def actVe (a : Nat) : Nat := bitsOf a 52 12

/- CLS_RULE_SET (R222, R223, R235). -/

/-- The rule of a 128-byte rule record (R234). -/
def ruleOfRecord (r : List Byte) : Rule :=
  let r := padTo 128 r
  { key := ofLe (slice r 0 60), mask := ofLe (slice r 60 60), action := ofLe (slice r 120 8) }

def ruleBytes (r : Rule) : List Byte := leBytes 60 r.key ++ leBytes 60 r.mask ++ leBytes 8 r.action

/-- The record may be stored (R235). -/
def ruleBad (t : Tables) (r : Rule) : Bool :=
  let a := r.action
  let cnt := bitsOf a 32 20
  (r.key &&& r.mask) != r.key || actDisp a ≥ 6
    || (bitOf a 31 && (cnt % 2 == 1 || decide (cnt ≥ generalCounters)))
    || (actDisp a == 2 && !(veOf t (actVe a)).valid)

/-- CLS_RULE_SET writes the named slices of the named dies among `l`, in ascending order, and wakes a slice for the
write only (R223, R485). -/
def applyClsRuleSet (l : List Nat) (p : BitVec 384) (record : List Byte) (d : Dev) : Dev :=
  let i := bitsOf (pf p 2 2) 0 14
  let valid := bitOf (pf p 4 1) 0
  shadowed (fun d => ((bitList 8 (pf p 0 1)).filter l.contains).foldl (fun d n =>
    (bitList 4 (pf p 1 1)).foldl (fun d s =>
      onDie (countWake d n s) n fun x => parGood { x with
        rules := if valid then kput x.rules (s, i) (ruleOfRecord record) else kdel x.rules (s, i) } 2 (s * 16384 + i)) d)
    d) d

def specClsRuleSet (d : Dev) (p : BitVec 384) (record : List Byte) : CmdSpec :=
  let valid := bitOf (pf p 4 1) 0
  { opcode := 0x0501, kind := .w, keepers := 0 :: bitList 8 (pf p 0 1), record := record,
    checks := [ckMask d 0 (pf p 0 1), resv p 1 1 0xF0, badIf 1 (pf p 1 1 % 16 == 0), resv p 2 2 0xC000, resv p 4 1 0xFE,
      resB p 5 3, ckAlign 8 64 (pf p 8 8), badIf 8 (valid && ruleBad d.master (ruleOfRecord record))],
    run := fun d => (applyClsRuleSet (aliveDies d) p record d, {}) }

def execClsRuleSet (c : Cmd) (record : List Byte) (s : State) : Host.Outcome State Fault Refusal :=
  onDev s fun d => runCmd (specClsRuleSet d c.params record) c d

/-- CLS_RULE_GET writes the stored record to host memory and answers VALID (R234). -/
def specClsRuleGet (via : Nat) (d : Dev) (p : BitVec 384) : CmdSpec :=
  let n := pf p 0 1
  let s := pf p 1 1
  let i := bitsOf (pf p 2 2) 0 14
  { opcode := 0x0502, kind := .r, any := true, keepers := [n],
    checks := [ckDie d 0 n, badIf 1 (s > 3), resv p 2 2 0xC000, resB p 4 4, ckAlign 8 64 (pf p 8 8)],
    run := fun d =>
      let r := kget? (dieOf d n).rules (s, i)
      (hostWrite d via .pf0 (pf p 8 8) (ruleBytes (r.getD ⟨0, 0, 0⟩)), okResult (leBytes 1 (atBit 0 r.isSome))) }

def execClsRuleGet (c : Cmd) (s : State) : Host.Outcome State Fault Refusal :=
  onDev s fun d => runCmd (specClsRuleGet c.die d c.params) c d

/- CLS_PORT_SET (R211, R236). -/

/-- Actions allowed for the seven failure kinds, in the order of R211. -/
def actionsAllowed : List (List Nat) := [[0, 1], [0, 1, 2, 3], [0, 1, 2, 3], [2, 3], [2, 3], [0, 1], [0, 1, 2, 3]]

/-- The action byte of failure kind `k` may be stored: an allowed code, and a ring only with PUNT_HOST (R234, R236). -/
def actionByteOk (k b : Nat) : Bool :=
  (actionsAllowed.getD k []).contains (b % 8) && !bitOf b 3 && (b % 8 == 2 || b / 16 == 0)

def specClsPortSet (d : Dev) (p : BitVec 384) : CmdSpec :=
  let port := pf p 0 2
  { opcode := 0x0503, kind := .w, keepers := [0, dieOfPort port],
    checks := [ckPort d 0 port, resv p 2 1 0xF8, resB p 3 1, resB p 7 1]
      ++ ((List.range 7).map fun k => badIf (8 + k) (!actionByteOk k (pf p (8 + k) 1))) ++ [resB p 15 1],
    run := fun d => (onPort d port fun q => { q with set := { q.set with
      tcDefault := bitsOf (pf p 2 1) 0 3
      pcpMap := (List.range 8).map fun k => bitsOf (pf p 4 3) (3 * k) 3
      actions := (List.range 7).map fun k => pf p (8 + k) 1 } }, {}) }

def execClsPortSet (c : Cmd) (s : State) : Host.Outcome State Fault Refusal :=
  onDev s fun d => runCmd (specClsPortSet d c.params) c d

/-- CLS_PARSER_SET (R231, R234). -/
def specClsParserSet (d : Dev) (p : BitVec 384) : CmdSpec :=
  let vx := pf p 0 2
  let gn := pf p 2 2
  { opcode := 0x0504, kind := .w, keepers := aliveDies d,
    checks := [badIf 2 (gn == vx || gn == 319), resB p 4 4,
      let homes := (List.range 8).map fun n => ckDie d 8 (pf p (8 + n) 1)
      ⟨8, homes.any (·.unsup), homes.any (·.bad)⟩],
    run := fun d => (onTables d fun t => { t with
      vxlanPort := vx
      genevePort := gn
      puntHome := (List.range 8).map fun n => (n, pf p (8 + n) 1) }, {}) }

def execClsParserSet (c : Cmd) (s : State) : Host.Outcome State Fault Refusal :=
  onDev s fun d => runCmd (specClsParserSet d c.params) c d

/- CLS_UDF_SET (R237). -/

def udfOfParams (p : BitVec 384) : Udf :=
  { mode := pf p 1 1, matchKind := pf p 2 1, anchor := pf p 3 1, matchValue := pf p 4 2, lenFixed := pf p 6 1,
    lenOff := pf p 7 1, lenMask := pf p 8 1, lenShift := pf p 9 1, lenMul := pf p 10 1, lenAdd := pf p 11 1,
    nextKind := pf p 12 1, nextOff := pf p 13 1, capOff := pf p 14 1 }

/-- The anchor names a header and an instance (R234). -/
def anchorOk (a : Nat) : Bool := (anchorKind (a % 16)).isSome && (a / 16 % 4 == 1 || a / 16 % 4 == 2) && decide (a < 64)

/-- CLS_UDF_SET (R234, R237). With MODE 0 the fields of both modes must be 0, and CAP_OFF, which neither mode alone has, is
judged by its range (DESIGN CHOICE, log 58). -/
def specClsUdfSet (d : Dev) (p : BitVec 384) : CmdSpec :=
  let mode := pf p 1 1
  let hdr := mode == 1
  let rng := fun off ok => badIf off (if hdr then !ok else pf p off 1 != 0)
  { opcode := 0x0505, kind := .w, keepers := aliveDies d,
    checks := [resv p 0 1 0xFC, badIf 1 (mode > 2), rng 2 (decide (pf p 2 1 ≤ 2)),
      badIf 3 (if mode = 2 then !anchorOk (pf p 3 1) else pf p 3 1 != 0), badIf 4 (!hdr && pf p 4 2 != 0),
      rng 6 (decide (4 ≤ pf p 6 1) && decide (pf p 6 1 ≤ 252)), rng 7 true, rng 8 true, rng 9 (decide (pf p 9 1 ≤ 7)),
      rng 10 ([1, 2, 4, 8].contains (pf p 10 1)), rng 11 true, rng 12 (decide (pf p 12 1 ≤ 2)), rng 13 true,
      badIf 14 (pf p 14 1 > 252), resB p 15 1],
    run := fun d => (onTables d fun t => { t with udfs := kput t.udfs (bitsOf (pf p 0 1) 0 2) (udfOfParams p) }, {}) }

def execClsUdfSet (c : Cmd) (s : State) : Host.Outcome State Fault Refusal :=
  onDev s fun d => runCmd (specClsUdfSet d c.params) c d

/-- CLS_PUNT_RING_SET (R234, R238). -/
def specClsPuntRingSet (d : Dev) (p : BitVec 384) : CmdSpec :=
  let n := pf p 0 1
  let r := pf p 1 1
  let log2 := pf p 2 1
  { opcode := 0x0506, kind := .w, keepers := [0, n],
    checks := [ckDie d 0 n, resv p 1 1 0x70, badIf 2 (decide (log2 < 8) || decide (log2 > 16)), resB p 3 5,
      ckAlign 8 4096 (pf p 8 8), ckAlign 16 4096 (pf p 16 8), ckAlign 24 4096 (pf p 24 8),
      ckAlign 32 4096 (pf p 32 8)],
    run := fun d => (setPRing d n (.punt (bitsOf r 0 4)) (bitOf r 7) log2 0 (pf p 8 8) (pf p 16 8) (pf p 24 8)
      (pf p 32 8), {}) }

def execClsPuntRingSet (c : Cmd) (s : State) : Host.Outcome State Fault Refusal :=
  onDev s fun d => runCmd (specClsPuntRingSet d c.params) c d

end Sys2Proof.Machine
end

