-- ==== Sys2Proof/Machine/Flow.lean ====
section
/-! DEFINITION. Pausing the far end (R433 to R437): the ingress count, the pause decision and the VE_XOFF decision. -/

namespace Sys2Proof.Machine

/-- Comb cells of a chain. -/
def cellsOf (l : List Loc) : List Nat := l.filterMap fun k => match k with
  | .cell c => some c
  | .page _ => none

/-- IC: comb cells of admitted frames that arrived on a port in a class, until they are returned: a frame is admitted to a VOQ
or, after its last byte, to the slow path (R226, R350, R433). -/
def ingressCount (d : Dev) (p c : Nat) : Nat :=
  ((d.frames.filter fun f => f.kind == .received && f.port == p && f.tc == c && f.taken).map
    fun f => (cellsOf f.chain).length).sum

/-- A MAC control frame of the port with its FCS (R435). -/
def macControlFrame (smac : List Byte) (opcode : Nat) (body : List Byte) : List Byte :=
  let b := padTo 60 (beBytes 6 0x0180C2000001 ++ padTo 6 smac ++ beBytes 2 0x8808 ++ beBytes 2 opcode ++ body)
  b ++ leBytes 4 (crc32 b)

/-- PFC frame: quanta of the classes in `mask` (R435). -/
def pfcFrame (smac : List Byte) (mask quanta : Nat) : List Byte :=
  macControlFrame smac 0x0101
    (beBytes 2 mask ++ (List.range 8).flatMap fun c => beBytes 2 (if bitOf mask c then quanta else 0))

/-- Send what the port pauses now (a package that does not hold the lease sends no pause frame, R654); `freed` is the
class released, if the message is a release (R435). A port in L2 first leaves it, and its PAUSE follows (R73; log 56).
A release of one class alone does not refresh the classes that stay paused (R435). -/
def sendPause (d : Dev) (p : Nat) (freed : Option Nat) : Dev :=
  let d := onPort (wakeTx d p) p fun q =>
    { q with txPauseAt := if freed.isSome && q.conf.mode == 2 && q.set.fcMode == 2 then q.txPauseAt else d.now }
  let q := portOf d p
  if q.conf.mode = 2 && !isActive d then d
  else if q.conf.mode = 1 && !txOn d p then onPort d p fun q => { q with owed := q.owed ++ [.pause q.txPaused] }
  else
  let d := bumpPort d p cntPauseTx 1
  if q.conf.mode = 1 then emitOn d p (.pauseRow p q.txPaused q.set.hold)
  else if q.set.fcMode = 1 then
    emitOn d p (.macControl p (macControlFrame q.set.smac 1 (beBytes 2 (if q.txPaused = 0 then 0 else q.set.hold))))
  else match freed with
    | some c => emitOn d p (.macControl p (pfcFrame q.set.smac (2 ^ c) 0))
    | none => emitOn d p (.macControl p (pfcFrame q.set.smac q.txPaused q.set.hold))

/-- The port pauses its far end as one, class by class, or not at all (R426, R434). -/
def pausesAsOne (q : Port) : Bool := q.conf.mode == 2 && q.set.fcMode == 1
def pausesByClass (q : Port) : Bool := q.conf.mode == 1 || (q.conf.mode == 2 && q.set.fcMode == 2)

/-- IC as the port's pause decisions and its LOSSLESS rule take it: that of the class, or of every LOSSLESS class where the port
pauses as one (R434, R436). -/
def losslessCount (d : Dev) (p c : Nat) : Nat :=
  let q := portOf d p
  if pausesAsOne q then ((bitList 8 q.set.lossless).map fun c => ingressCount d p c).sum else ingressCount d p c

/-- Decide the pause of one class (R434). -/
def decideClass (d : Dev) (p c : Nat) : Dev :=
  let q := portOf d p
  let ic := losslessCount d p c
  let on := bitOf q.txPaused c
  if !on && bitOf q.set.lossless c && decide (ic ≥ q.set.xoffTh) then
    sendPause (onPort d p fun q => { q with txPaused := q.txPaused ||| 2 ^ c }) p none
  else if on && (!bitOf q.set.lossless c || decide (ic < q.set.xonTh)) then
    sendPause (onPort d p fun q => { q with txPaused := q.txPaused - 2 ^ c }) p (some c)
  else d

/-- Decide the pause of a port that pauses as one (R434). -/
def decideAll (d : Dev) (p : Nat) : Dev :=
  let q := portOf d p
  let ic := losslessCount d p 0
  if q.txPaused = 0 && q.set.lossless != 0 && decide (ic ≥ q.set.xoffTh) then
    sendPause (onPort d p fun q => { q with txPaused := 0xFF }) p none
  else if q.txPaused != 0 && (q.set.lossless == 0 || decide (ic < q.set.xonTh)) then
    sendPause (onPort d p fun q => { q with txPaused := 0 }) p none
  else d

/-- The pause decisions of a port as IC stands (R434). -/
def decidePause (d : Dev) (p : Nat) : Dev :=
  let q := portOf d p
  if !portUp d p then d
  else if pausesAsOne q then decideAll d p
  else if pausesByClass q then (List.range 8).foldl (fun d c => decideClass d p c) d
  else d

/-- Send VE_XOFF for a source VE (R437). A port in L2 first leaves it, and its VE_XOFF follows (R73; log 56). -/
def sendVeXoff (d : Dev) (p v : Nat) (on : Bool) : Dev :=
  let d := onPort (wakeTx d p) p fun q => { q with txXoff := if on then kput q.txXoff v d.now else kdel q.txXoff v }
  if !txOn d p then onPort d p fun q => { q with owed := q.owed ++ [.veXoff v on] }
  else emitOn (bumpPort d p cntVeXoffTx 1) p (.veXoff p v 0xFF (portOf d p).set.hold on)

/-- An ordered set that waited for the transmitter goes out (R73, R131). -/
def sendOwed (d : Dev) (p : Nat) : Owed → Dev
  | .pause mask => emitOn (onPort (bumpPort d p cntPauseTx 1) p fun q => { q with txPauseAt := d.now }) p
      (.pauseRow p mask (portOf d p).set.hold)
  | .veXoff v on => emitOn (bumpPort d p cntVeXoffTx 1) p (.veXoff p v 0xFF (portOf d p).set.hold on)

/-- What a port decided to send while it was in L2 goes out, in the order of decision (R73, R78, R131). -/
def resumeTx (d : Dev) (p : Nat) : Dev :=
  let q := portOf d p
  let d := q.owed.foldl (fun d o => sendOwed d p o) (onPort d p fun q => { q with owed := [] })
  if isPeerPort d p then drainPeer d else d

/-- The XOFF decision for a VE from its cells on a die (R437). -/
def decideVe (d : Dev) (n v : Nat) : Dev :=
  let e := veOf (dieOf d n).tab v
  let q := portOf d e.port
  let use := kget (dieOf d n).veUse v 0
  let on := (kget? q.txXoff v).isSome
  if !e.valid || dieOfPort e.port != n || !isSpindle d e.port || !portUp d e.port then d
  else if !on && q.set.veXoffEn && decide (use ≥ q.set.veXoffOn) then sendVeXoff d e.port v true
  else if on && (!q.set.veXoffEn || decide (use < q.set.veXoffOff)) then sendVeXoff d e.port v false
  else d

end Sys2Proof.Machine
end

