-- ==== Sys2Proof/Machine/Comb.lean ====
section
/-! DEFINITION. The comb of a die (R334 to R354): the free list, the pools, taking and returning cells, and what a
tenant and a VE are charged. -/

namespace Sys2Proof.Machine

/-- Cells of a comb, of a bank and of a row group (R334, R622). -/
def combCells : Nat := 196608
def bankCells : Nat := 16384
def rowCells : Nat := 64

def bankIsOn (b : Comb) (k : Nat) : Bool := b.banks.getD k .off == .on

/-- A cell of a bank that is not ON, or of a retired row group, is not listed (R337, R487, R624). -/
def unlisted (b : Comb) (c : Nat) : Bool := !bankIsOn b (c / bankCells) || b.retired.contains (c / rowCells)

/-- Numbers common to `[a, a + n)` and `[lo, hi)`. -/
def overlap (a n lo hi : Nat) : Nat := min (a + n) hi - max a lo

/-- Listed numbers of the run of `n` cells from `a`. -/
def listedIn (b : Comb) (a n : Nat) : Nat :=
  (((List.range 12).filter (bankIsOn b)).map fun k => overlap a n (bankCells * k) (bankCells * (k + 1))).sum
    - ((b.retired.filter fun g => bankIsOn b (g / 256)).map fun g => overlap a n (rowCells * g) (rowCells * (g + 1))).sum

/-- LISTED of QOS_BUF_STATUS (R337). -/
def listedCells (b : Comb) : Nat := listedIn b 0 combCells

/-- F, the cells on the free list (R342). -/
def freeCells (b : Comb) : Nat := (b.free.map fun r => listedIn b r.1 r.2).sum

/-- Size of a fixed pool: 1 TC7 reserve, 2 Keeper reserve, 3 egress (R335, R341). -/
def poolSize (b : Comb) : Nat → Nat
  | 1 => 1792
  | 2 => 256
  | 3 => b.egressPool
  | _ => 0

/-- Cells left in a fixed pool (R342). -/
def poolLeft (b : Comb) (p : Nat) : Nat := poolSize b p - (b.held.filter fun h => h.pool == p).length

/-- S, the shared free count (R342). -/
def sharedFree (b : Comb) : Nat := freeCells b - (poolLeft b 1 + poolLeft b 2 + poolLeft b 3)

def isHeld (b : Comb) (c : Nat) : Bool := b.held.any fun h => h.cell == c

/-- Take the cell at the head of the free list: unlisted cells are unlinked, and a HELD cell at the head is unlinked
and counted (R339, R487). The answer is the HELD cells unlinked, and the cell. -/
def popFree : Nat → Comb → List Nat × Option Nat × Comb
  | 0, b => ([], none, b)
  | fuel + 1, b => match b.free with
    | [] => ([], none, b)
    | (a, n) :: r =>
      if n = 0 then popFree fuel { b with free := r }
      else
        let rest := fun k => if n ≤ k then r else (a + k, n - k) :: r
        if unlisted b a then popFree fuel { b with free := rest (rowCells - a % rowCells) }
        else if isHeld b a then
          let x := popFree fuel { b with free := rest 1 }
          (a :: x.1, x.2)
        else ([], some a, { b with free := rest 1 })

/-- Steps that `popFree` may need: one for each run, row group passed and HELD cell. -/
def popFuel (b : Comb) : Nat := 3 * b.free.length + 3072 + b.held.length + 1

/-- A draw from pool `p` is granted now: 0 the shared pool (R342). -/
def drawOk (b : Comb) (p : Nat) : Bool :=
  if p = 0 then decide (sharedFree b ≥ 1) else decide (poolLeft b p ≥ 1) && decide (freeCells b ≥ 1)

def onComb (d : Dev) (n : Nat) (f : Comb → Comb) : Dev := onDie d n fun x => { x with comb := f x.comb }

def combOf (d : Dev) (n : Nat) : Comb := (dieOf d n).comb

/-- Since when S has been at or above 81,920 cells, kept up to date (R487). -/
def noteFree (d : Dev) (n : Nat) : Dev :=
  onComb d n fun b => { b with highSince := if sharedFree b ≥ 81920 then some (b.highSince.getD d.now) else none }

/-- A refused return or a bad list head is reported at most once a second, and an audit falls due (R340). -/
def combRefused (d : Dev) (n cell kind : Nat) : Dev :=
  let b := { combOf d n with audit := true, refusals := (combOf d n).refusals + 1 }
  if mayRaise d b.refAt sec then
    raise (onComb d n fun _ => { b with refusals := 0, refAt := some d.now }) n evCombFreeRefused
      (leBytes 4 cell ++ leBytes 1 kind ++ leBytes 3 0 ++ leBytes 4 b.refusals)
  else onComb d n fun _ => b

/-- Draw one cell of pool `p` on a die, or none (R338, R339, R342, R348). -/
def drawCell (d : Dev) (n p : Nat) : Option Nat × Dev :=
  let b := combOf d n
  if !drawOk b p then (none, d)
  else
    let x := popFree (popFuel b) b
    let b := match x.2.1 with
      | some c => { x.2.2 with held := ⟨c, p⟩ :: x.2.2.held }
      | none => x.2.2
    let d := noteFree (onComb d n fun _ => b) n
    let d := x.1.foldl (fun d c => combRefused (bumpDie d n cntCombListBad 1) n c 2) d
    (x.2.1, d)

/-- Draw `k` cells of a pool; the cells granted, in order. -/
def drawCells (n p : Nat) : Nat → Dev → List Nat × Dev
  | 0, d => ([], d)
  | k + 1, d =>
    let x := drawCell d n p
    match x.1 with
    | none => ([], x.2)
    | some c => let y := drawCells n p k x.2
      (c :: y.1, y.2)

/-- Link a cell at the tail of the free list. -/
def linkTail : List (Nat × Nat) → Nat → List (Nat × Nat)
  | [], c => [(c, 1)]
  | [(a, n)], c => if a + n = c then [(a, n + 1)] else [(a, n), (c, 1)]
  | r :: s :: t, c => r :: linkTail (s :: t) c

/-- Return cells in chain order. A cell that is FREE already stops the return (R338); an unlisted cell is not linked
(R337, R624). -/
def returnCells (n : Nat) : List Nat → Dev → Dev
  | [], d => d
  | c :: r, d =>
    let b := combOf d n
    if !isHeld b c then combRefused (bumpDie d n cntCombDoubleFree 1) n c 0
    else returnCells n r (noteFree (onComb d n fun b => { b with
      held := b.held.filter fun h => h.cell ≠ c
      free := if unlisted b c then b.free else linkTail b.free c }) n)

/- Charges (R174 to R180, R364, R367). -/

/-- Add to the comb cells charged to a tenant and a VE on a die (R176, R178), and decide the VE's XOFF (R437). -/
def chargeComb (d : Dev) (n v t : Nat) (k : Int) : Dev :=
  let add := fun u : Nat => ((u : Int) + k).toNat
  decideVe (checkOver (onDie d n fun x => { x with
    combUse := kputD x.combUse t (add (kget x.combUse t 0)) 0
    veUse := kputD x.veUse v (add (kget x.veUse v 0)) 0 }) n t) n v

/-- Add to the deep-store cells charged to a tenant on a die (R364, R367). -/
def chargeStore (d : Dev) (n t : Nat) (k : Int) : Dev :=
  checkOver (onDie d n fun x => { x with
    storeUse := kputD x.storeUse t (((kget x.storeUse t 0 : Nat) : Int) + k).toNat 0 }) n t

/-- One more cell for a frame charged to (VE, tenant, cap) is admitted by COMB_QUOTA and CELL_CAP (R178, R179). -/
def cellAdmitted (d : Dev) (n : Nat) (ch : Nat × Nat × Nat) : Bool :=
  let x := dieOf d n
  admits (tenantOf x.tab ch.2.1).comb (kget x.combUse ch.2.1 0) && admits ch.2.2 (kget x.veUse ch.1 0)

end Sys2Proof.Machine
end

