-- ==== Sys2Proof/Machine/Bridges.lean ====
section
/-! DEFINITION. Bridge channels and paths (R389 to R398): how channels connect, the path of a flow, and flits on their
way out of a die. -/

namespace Sys2Proof.Machine

/-- The die at the far end of channel `j` of die `n` (R389). -/
def farDie (p : Part) (n j : Nat) : Option Nat := match p with
  | .km8200 => if j < 7 then some (1 - n) else none
  | .km8400 => if j < 6 then some ((n + j / 2 + 1) % 4) else none
  | .km8800 => if j < 7 then some ((n + j + 1) % 8) else none

/-- The number that the far end gives the same channel (R389; of two channels of one bridge, even meets even). -/
def farChan (p : Part) (j : Nat) : Nat := match p with
  | .km8200 => j
  | .km8400 => 2 * (2 - j / 2) + j % 2
  | .km8800 => 6 - j

def chanOf (d : Dev) (n j : Nat) : Chan := (dieOf d n).chans.getD j {}

def onChan (d : Dev) (n j : Nat) (f : Chan → Chan) : Dev := onDie d n fun x => { x with chans := lmod x.chans j f }

/-- The channels of the bridge from die `n` to die `e`. -/
def bridgeChans (d : Dev) (n e : Nat) : List Nat := (List.range 7).filter fun j => farDie d.part n j == some e

/-- Flits that a replay buffer holds (R392). -/
def replayRoom : Nat := 3125

/- Flits (R390, R391). -/

/-- Cells of `l` bytes (R336). -/
def cellCount (l : Nat) : Nat := ceilDiv l 256

/-- Sectors of a flit that are in use. -/
def flitSecs (g : Flit) : Nat := (g.parts.map (·.secs)).sum

/-- Bits of the sectors in which a frame begins, or, with `last`, ends (R391). -/
def secMask (last : Bool) : Nat → List Piece → Nat
  | _, [] => 0
  | s, p :: r => (if last then atBit (s + p.secs - 1) p.fin else atBit s p.start) + secMask last (s + p.secs) r

/-- The 64-bit header of a flit (R391). -/
def flitHeader (kind seq ack : Nat) (nak : Bool) (g : Flit) : Nat :=
  seq * 2 ^ 52 + ack * 2 ^ 40 + atBit 39 nak + kind * 2 ^ 37 + g.src * 2 ^ 34 + g.dst * 2 ^ 31 + g.tc * 2 ^ 28
    + atBit 27 g.mc + g.lane * 2 ^ 20 + secMask false 0 g.parts * 2 ^ 12 + secMask true 0 g.parts * 2 ^ 4
    + atBit 3 (g.parts.any (·.bad))

/-- Two flits belong to one stream towards one first die (R390). -/
def sameStream (a b : Flit) : Bool :=
  a.src == b.src && a.dst == b.dst && a.tc == b.tc && a.mc == b.mc && a.lane == b.lane

/-- New flits of the stream of `t` with the sectors of a piece, 8 to a flit (R390). -/
def newFlits (t : Flit) (p : Piece) : List Flit :=
  let n := ceilDiv p.secs 8
  (List.range n).map fun i => { t with parts := [{ p with
    secs := min 8 (p.secs - 8 * i)
    start := p.start && i == 0
    fin := p.fin && i + 1 == n
    bad := p.bad && i + 1 == n }] }

/-- A piece of a frame joins the flits that wait: it fills the last one of its stream, unless a frame marked BAD ends that
one, and goes on in new ones (R390). -/
def putPart (l : List Flit) (t : Flit) (p : Piece) : List Flit :=
  match ((List.range l.length).filter fun i => (l[i]?).any (sameStream t)).getLast? with
  | none => l ++ newFlits t p
  | some i =>
    let g := l.getD i t
    let k := min (8 - flitSecs g) p.secs
    if k = 0 || g.parts.any (·.bad) then l ++ newFlits t p
    else
      let head := { p with secs := k, fin := p.fin && k == p.secs, bad := p.bad && k == p.secs }
      lmod l i (fun g => { g with parts := g.parts ++ [head] }) ++ newFlits t { p with secs := p.secs - k, start := false }

/-- The frame has ended, has passed its checks and has all its cells. -/
def wholeOk (f : Frame) : Bool :=
  f.good && (f.kind == .copyHost || f.chain.length == cellCount (f.len.getD f.bytes.length))

/-- The whole of a frame is on hand: it has passed its checks, and it is not leaving as it arrives. -/
def wholeFrame (f : Frame) : Bool := f.good && f.len.isSome

/-- HASH of R248 for path buckets (R396). -/
def pathHash (l : List Byte) : Nat := hashSeed 0x7A3C15E9 l % 64

/-- Bucket of a frame in the path table towards die `e` (R396). -/
def pathBucket (f : Frame) (q : VoqKey) (e : Nat) : Nat :=
  pathHash ((if q.mc then leBytes 2 e else leBytes 2 q.target) ++ leBytes 1 q.tc ++ leBytes 2 f.ve ++ f.parsed.flow)

/-- The path code of a frame of VOQ `q` towards die `e` (R396, R397): 0 direct, 8 + r through die r. -/
def pathCode (d : Dev) (f : Frame) (q : VoqKey) (e : Nat) : Nat :=
  (kget (dieOf d q.die).paths e []).getD (pathBucket f q e) 0

/-- The first die on a path. -/
def nextHop (code e : Nat) : Nat := if code < 8 then e else code - 8

/-- The die a VOQ leads to. -/
def voqDie (q : VoqKey) : Nat := if q.mc then q.target else dieOfPort q.target

/- Streams that left by cut-through (R386, R390, R400, R407). -/

/-- The frame's end has not yet been dealt with for a copy that left its VOQ by cut-through. -/
def openCut (c : Copy) : Bool := c.cut && !c.mc && (if c.own then !c.ended else !c.handed)

/-- The same of a multicast chain of frame `f`. -/
def openCutChain (f : Frame) (m : McChain) : Bool := m.cut && (if m.die == f.die then !m.ended else !m.handed)

/-- A frame that left the VOQ by cut-through is still leaving on the path of frame `f`: the stream takes its next frame
after it (R390). -/
def streaming (d : Dev) (q : VoqKey) (f : Frame) : Bool :=
  let e := voqDie q
  let code := pathCode d f q e
  q.die != e && if q.mc then
      (dieOf d e).mcIn.any fun m => let g := frameOf d m.fid
        g.die == q.die && g.tc == q.tc && openCutChain g m && m.via == code
    else d.copies.any fun c => c.port == q.target && c.tc == q.tc && (frameOf d c.fid).die == q.die && openCut c && c.via == code

/- Flits on their way out of a die (R389, R390, R392, R394, R398). -/

/-- The VOQ whose stream a flit belongs to. -/
def flitVoq (g : Flit) : VoqKey := ⟨g.src, g.mc, if g.mc then g.dst else g.dst * 128 + g.lane, g.tc⟩

/-- The stream of a flit towards die `hop` has more data ready: the head frame of its VOQ is whole, covered by the BALANCE,
and takes the same path, on which no frame is still leaving by cut-through (R386, R390). -/
def streamReady (d : Dev) (hop : Nat) (g : Flit) : Bool :=
  let q := flitVoq g
  let v := voqOf d q
  match v.head with
  | [] => false
  | t :: _ =>
    let f := frameOf d t.fid
    !t.aborted && wholeOk f && !streaming d q f && decide (v.balance ≥ cellCount (f.len.getD f.bytes.length))
      && !((dieOf d q.die).draining.any fun e => e.1 == voqDie q) && nextHop (pathCode d f q g.dst) g.dst == hop

/-- Flits that the relay buffer of a bridge holds (R398). -/
def relayRoom : Nat := 256

/-- Flits in the relay buffer of die `r` for the bridge to die `e`, and flits on their way to it (R398). -/
def relayLoad (d : Dev) (r e : Nat) : Nat :=
  (kget (dieOf d r).relays e []).length + ((dieOf d r).rxHold.filter fun h => h.2.dst == e).length
    + ((List.range 8).map fun n => ((bridgeChans d n r).map fun j =>
        ((chanOf d n j).replay.filter fun g => g.dst == e).length).sum).sum

/-- A flit of die `n` for the bridge to die `m` may be sent: it is full, ends a frame marked BAD, or its stream has no more
data ready; and as a relay flit it has room at the relay die (R390, R398). A flit of a failed channel was sent before. -/
def wireable (d : Dev) (m : Nat) (g : Flit) : Bool :=
  g.ord.isSome
    || ((decide (flitSecs g ≥ 8) || g.parts.any (·.bad) || !streamReady d m g) && (g.dst == m || decide (relayLoad d m g.dst < relayRoom)))

/-- The channel of a bridge whose turn it is: those retraining or failed are left out of the rotation (R389). -/
def dealChan (d : Dev) (n m : Nat) : Option Nat :=
  let up := (bridgeChans d n m).filter fun j => (chanOf d n j).st == .up
  up[kget (dieOf d n).dealt m 0 % max up.length 1]?

/-- The channel can take a new flit: no replay is in progress, and its replay buffer has room (R392). -/
def chanTakes (c : Chan) : Bool := !c.nak && decide (c.replay.length < replayRoom)

/-- A flit goes on the wire on channel `j` of die `n` towards die `m`; it keeps the place in the order of the bridge that it
was dealt before (R389, R392). -/
def wireFlit (d : Dev) (n m j : Nat) (g : Flit) (relay : Bool) : Dev :=
  let k := kget (dieOf d n).dealt m 0
  onDie (onChan d n j fun c => { c with
    replay := c.replay ++ [{ g with ord := some (g.ord.getD k) }]
    seq := (c.seq + 1) % 4096
    relayTurn := !relay }) n fun x => { x with dealt := kput x.dealt m (k + 1) }

/-- Own flits of die `n` for the bridge to die `m` go on the wire while its channels take them, unless a relay flit waits
and has the turn (R392, R398). -/
def feedBridge (n m : Nat) : Nat → Dev → Dev
  | 0, d => d
  | fuel + 1, d =>
    let l := kget (dieOf d n).outq m []
    match dealChan d n m, l.findIdx? (wireable d m) with
    | some j, some i =>
      let c := chanOf d n j
      if !chanTakes c || (c.relayTurn && !(kget (dieOf d n).relays m []).isEmpty) then d
      else match l[i]? with
        | none => d
        | some g => feedBridge n m fuel (wireFlit (onDie d n fun x => { x with outq := kput x.outq m (l.eraseIdx i) }) n m j g false)
    | _, _ => d

def feed (d : Dev) (n m : Nat) : Dev := feedBridge n m (kget (dieOf d n).outq m []).length d

/-- A piece of a frame of VOQ `q` goes on its path, by its code (R390, R397). -/
def pushPart (d : Dev) (q : VoqKey) (code : Nat) (p : Piece) : Dev :=
  let e := voqDie q
  let m := nextHop code e
  let t : Flit := { src := q.die, dst := e, tc := q.tc, mc := q.mc, lane := if q.mc then 0 else localOf q.target, parts := [] }
  feed (onDie d q.die fun x => { x with outq := kput x.outq m (putPart (kget x.outq m []) t p) }) q.die m

/-- The sectors of a frame that can leave and have not: while it is still arriving, those whose bytes lie in written cells
and are not its last; at its end all of them, of a bad frame those that lie in cells, the last with END, and with BAD
when the frame is bad (R390, R407). -/
def pushStream (d : Dev) (f : Frame) (q : VoqKey) (code sent : Nat) (slow ecn fin bad : Bool) : Nat × Dev :=
  let l := f.len.getD f.bytes.length
  let held := 8 * f.chain.length
  let n := if fin then max (if bad then min (ceilDiv l 32) held else ceilDiv l 32) (sent + 1) else min ((f.bytes.length - 1) / 32) held
  if n ≤ sent then (sent, d)
  else (n, pushPart d q code { fid := f.id, secs := n - sent, start := sent == 0, fin := fin, bad := bad, slow := slow, ecn := ecn })

end Sys2Proof.Machine
end

