-- ==== Sys2Proof/Machine/Energy.lean ====
section
/-! DEFINITION. Energy charges (R462 to R472): what a frame's operations cost and the account that pays. Sums are in
1/256 pJ before K. -/

namespace Sys2Proof.Machine

/-- Rate code of a port's lanes (R463). -/
def laneCode (d : Dev) (p : Nat) : Nat := laneRate (portOf d p)

/-- Lane bits of a frame of `l` bytes on lanes of a rate code (R463). -/
def laneOps (d : Dev) (n code l : Nat) : Nat := l * 8 * (dieOf d n).coefs.lane.getD code 0

/-- Ingress operations of a frame so far: its ingress lane bits, its lookups and its ingress chain, which has been read
out when `out` (R463, R464). -/
def ingressOps (d : Dev) (n : Nat) (f : Frame) (out : Bool) : Nat :=
  let c := (dieOf d n).coefs
  let cells := if out then cellCount (f.len.getD f.bytes.length) else f.chain.length
  (if f.kind = .received then laneOps d n f.laneIn (f.len.getD f.bytes.length) else 0)
    + 256 * (f.passes * c.lookup + (cells + f.readBack) * c.cellW + ((if out then cells else 0) + f.spilled) * c.cellR
      + f.spilled * c.storeW + f.readBack * c.storeR)

/-- Bridges that a copy crossed, by the path code in its descriptor (R463, R464). -/
def bridgesCrossed (f : Frame) (c : Copy) : Nat := if c.die = f.die then 0 else if c.via < 8 then 1 else 2

/-- Operations that a copy has received before its port: the crossing and the egress chain, written (R463). -/
def receivedOps (d : Dev) (f : Frame) (c : Copy) : Nat :=
  let k := (dieOf d c.die).coefs
  let l := f.len.getD f.bytes.length
  256 * (ceilDiv l 32 * bridgesCrossed f c * k.sector + (if c.own then 0 else cellCount l * k.cellW))

/-- Egress operations of a copy: those received, the reads of its chain and its egress lane bits (R463). The first reading of
the ingress chain stands among the ingress operations; with `again`, a copy on the ingress die reads it again. -/
def egressOps (d : Dev) (f : Frame) (c : Copy) (bytes : Nat) (again : Bool) : Nat :=
  let k := (dieOf d c.die).coefs
  receivedOps d f c + (if c.own && !again then 0 else 256 * cellCount bytes * k.cellR) + laneOps d c.die (laneCode d c.port) bytes

/-- Quota of an account (R466). -/
def quotaOf (d : Dev) (n a : Nat) : Nat := (tenantOf (dieOf d n).tab a).energy

/-- Grain ticks of an energy window (R467). -/
def windowTicks : Nat := 781250

/-- The present energy window is over, and the boundary has not acted yet (R467, R520). -/
def windowOver (d : Dev) : Bool :=
  d.grain0.isSome && d.run == .running && decide (windowTicks * (d.pkg.window + 1) ≤ tickOf d)

/-- Charge a sum of operations to an account on a die under a factor `k` (R463, R465, R470). A charge whose sample lies
after a boundary that has not acted belongs to the window after it (R467, R520). -/
def chargeAt (d : Dev) (n a k ops : Nat) : Dev :=
  let x := dieOf d n
  let c := kget x.accts a {}
  let e := ops * k / (256 * 65536)
  let nj := c.nj + e
  let balance := if quotaOf d n a = noLimit then 0 else max (c.balance - e) (-(c.share : Int))
  let d := onDie d n fun x =>
    if windowOver d then { x with
      eLate := x.eLate + ops / 256
      accts := kput x.accts a { c with late := c.late + e, nj := nj % 1000 } }
    else { x with
      eDyn := x.eDyn + ops / 256
      accts := kput x.accts a { c with balance := balance, u0 := c.u0 + e, nj := nj % 1000 } }
  checkOver (bump d n (slotTenant a cntEnergyNj) (nj / 1000)) n a

/-- Charge a sum of operations to an account on a die under its K. -/
def chargeEnergy (d : Dev) (n a ops : Nat) : Dev := chargeAt d n a (dieOf d n).k ops

/-- A frame or copy is charged on a die for `ops`, and the first time for the frame's ingress operations (R464). A frame of
the Keeper carries no account and is never charged (R462). -/
def feedEnergy (d : Dev) (n : Nat) (f : Frame) (ops : Nat) : Dev :=
  if f.kind = .keeper then d
  else
  let ops := ops + if f.fedE then 0 else ingressOps d n f (decide (ops > 0))
  chargeEnergy (onFrame d f.id fun f => { f with fedE := true }) n f.acct ops

end Sys2Proof.Machine
end

