-- ==== Sys2Proof/Machine/Voq.lean ====
section
/-! DEFINITION. What a VOQ holds: its measures, its segments and its next page (R355 to R373, R387). -/

namespace Sys2Proof.Machine

/- Measures of a VOQ (R355, R361, R420). -/

def voqItems (v : Voq) : List VItem := v.head ++ v.mid ++ v.tail

/-- Cells of a frame taken so far. -/
def chainLen (d : Dev) (i : Nat) : Nat := (frameOf d i).chain.length

/-- Cells of a frame in the pages of a VOQ, those being written included. -/
def inPages (v : Voq) (i : Nat) : Nat := ((v.pages.flatMap (·.cells)).filter fun c => c.1 == i).length

/-- O: comb cells of the frames of a VOQ (R355). Cells leave the comb when their page has been written (R363). -/
def occupancy (d : Dev) (v : Voq) : Nat :=
  ((voqItems v).map fun t => chainLen d t.fid).sum
    - ((v.pages.filter fun p => p.st != .writing).map fun p => p.cells.length).sum

/-- Q: the depth that WRED watches (R420). -/
def depthOf (d : Dev) (v : Voq) : Nat := occupancy d v + 16 * v.pages.length

/-- HEAD_CELLS and TAIL_CELLS (R361, R376): a frame of the middle has in TAIL the cells that no page has taken. -/
def tailCells (d : Dev) (v : Voq) : Nat :=
  (v.tail.map fun t => chainLen d t.fid).sum + (v.packed.map (·.2)).sum
def headCells (d : Dev) (v : Voq) : Nat :=
  (v.head.map fun t => chainLen d t.fid).sum
    + (v.mid.map fun t => chainLen d t.fid - inPages v t.fid - kget v.packed t.fid 0).sum

/-- The buffer profile of a VOQ (R356). -/
def bufOf (d : Dev) (q : VoqKey) : BufProfile :=
  let t := (dieOf d q.die).tab
  kget t.bufs (kget t.bufBind (q.mc, q.target, q.tc) 0) {}
/-- Free pages of a die (R360, R373). -/
def freePages (x : Die) : Nat :=
  4194304 - x.pagesUsed.length - (x.pagesRetired.filter fun p => !x.pagesUsed.contains p).length

/-- The frame may be packed: its last byte has been written (R363). -/
def packable (d : Dev) (t : VItem) : Bool := wholeOk (frameOf d t.fid)

/-- The frames at the front of TAIL that the next page takes cells of, given the cells still wanted; none when a frame
whose last byte has not been written comes first or too few cells wait. ABORTED frames take no place. -/
def pageFrames (d : Dev) : Nat → List VItem → Option (List VItem)
  | 0, _ => some []
  | _, [] => none
  | k + 1, t :: r =>
    if t.aborted then pageFrames d (k + 1) r
    else if !packable d t then none
    else (pageFrames d (k + 1 - chainLen d t.fid) r).map (t :: ·)

/-- Cells of the packer's frames, in chain order: (frame, cell number). -/
def packedCells (d : Dev) (v : Voq) : List (Nat × Nat) :=
  v.packed.flatMap fun e =>
    let n := chainLen d e.1
    (List.range e.2).map fun k => (e.1, n - e.2 + k)

/-- A page of the VOQ is ready to be packed; at STORE_MAX its cells wait for a page (R363, R370, R373). -/
def pageReady (d : Dev) (q : VoqKey) : Bool :=
  let v := voqOf d q
  let most := (bufOf d q).storeMax
  (most == 0 || decide (v.pages.length < most)) && v.spill && (bufOf d q).spillEn && (pageFrames d (16 - (packedCells d v).length) v.tail).isSome

/-- Whole frames at the front of TAIL join HEAD while HEAD is below READBACK_TH (R368). -/
def joinHead (d : Dev) (th : Nat) : Nat → Voq → Voq
  | 0, v => v
  | k + 1, v => match v.tail with
    | [] => v
    | t :: r =>
      let f := frameOf d t.fid
      if headCells d v ≥ th || !(f.good || t.aborted) then v
      else joinHead d th k { v with head := v.head ++ [t], tail := r }

/-- The tenant that pays for a frame's pages (R364); the cells that the Keeper took for a frame belong to no tenant (R177). -/
def storePayer (f : Frame) : Option Nat := if f.kind = .received && !f.byKeeper then f.charged.map (·.2.1) else none

/-- The cells that the packer of a VOQ has admitted and not written are no longer to be packed. -/
def clearPacked (d : Dev) (q : VoqKey) : Dev :=
  let l := (voqOf d q).packed
  let d := onVoq d q fun v => { v with packed := [] }
  l.foldl (fun d e => match storePayer (frameOf d e.1) with
    | some t => onDie d q.die fun x => { x with packing := kput x.packing t (kget x.packing t 0 - e.2) }
    | none => d) d

/-- What follows from a change of a VOQ in SPILL whose STORE is empty: frames join HEAD, and it returns to NORMAL when O
is below SPILL_OFF or SPILL_EN is clear (R368 to R370). -/
def settleSegments (d : Dev) (q : VoqKey) : Dev :=
  let b := bufOf d q
  let d := if (voqOf d q).spill && (voqOf d q).pages.isEmpty then clearPacked d q else d
  onVoq d q fun v =>
    if !v.spill || !v.pages.isEmpty then v
    else
      let v := { v with head := v.head ++ v.mid, mid := [] }
      if !b.spillEn || decide (occupancy d v < b.spillOff) then { v with spill := false, head := v.head ++ v.tail, tail := [] }
      else joinHead d b.readTh v.tail.length v

/-- Since when the next page of a VOQ has been ready, kept up to date (R365). -/
def noteReady (d : Dev) (q : VoqKey) : Dev :=
  let ready := pageReady d q
  onVoq d q fun v => { v with readyAt := if ready then some (v.readyAt.getD d.now) else none }

/-- A VOQ after a change of what it holds (R365, R368 to R370). -/
def settleVoq (d : Dev) (q : VoqKey) : Dev := noteReady (settleSegments d q) q

/-- Every VOQ in SPILL that holds a frame, after a change of the frame (R365, R368). -/
def settleSpill (d : Dev) (i : Nat) : Dev :=
  ((d.voqs.filter fun e => e.2.spill && (voqItems e.2).any fun t => t.fid == i).map (·.1)).foldl settleVoq d

/-- A VOQ returns its whole BALANCE (R387). -/
def returnBalance (d : Dev) (q : VoqKey) : Dev :=
  let v := voqOf d q
  if v.balance = 0 then d
  else bumpDie (returnCells (voqDie q) v.room (onVoq d q fun v => { v with balance := 0, room := [] })) (voqDie q)
    cntCreditReturn v.balance

/-- A VOQ holds no frame. -/
def voqEmpty (v : Voq) : Bool := (voqItems v).isEmpty

end Sys2Proof.Machine
end

