-- ==== Sys2Proof/Machine/Waits.lean ====
section
/-! DEFINITION. What the far end has paused, what waits on a port, and the stall timers (R429 to R432, R438 to R440). -/

namespace Sys2Proof.Machine

/- Pause states. An entry is (class or pair, until when); the state is in effect before that moment. -/

/-- One entry of a pause state is set until a moment, or released when that moment is not later than now: a release leaves
the entry, with now as its end, so that a boundary on the same tick finds it in effect (R144, R149, R440). -/
def setUntil {α : Type} [DecidableEq α] (l : List (α × Nat)) (k : α) (until' now : Nat) : List (α × Nat) :=
  if now < until' then kput l k until'
  else l.map fun e => if e.1 = k then (k, min e.2 now) else e

/-- Since when the entry's state has been in effect without a break. -/
def setSince {α : Type} [DecidableEq α] (l since : List (α × Nat)) (k : α) (until' now : Nat) : List (α × Nat) :=
  if until' ≤ now || l.any (fun e => e.1 == k && decide (now ≤ e.2)) then since else kput since k now

/-- Set the pause of a class from the far end until a moment (R144, R429). -/
def setPaused (q : Port) (c until' now : Nat) : Port :=
  { q with
    rxPaused := setUntil q.rxPaused c until' now
    pausedAt := setSince q.rxPaused q.pausedAt c until' now }

/-- Set the XOFF of a (VE, class) pair from the far end until a moment (R149). -/
def setXoff (q : Port) (k : Nat × Nat) (until' now : Nat) : Port :=
  { q with
    rxXoff := setUntil q.rxXoff k until' now
    xoffAt := setSince q.rxXoff q.xoffAt k until' now }

/-- The recorded pause state of a class (R144, R429, R439). -/
def recPaused (d : Dev) (p c : Nat) : Bool := ((portOf d p).rxPaused.any fun e => e.1 == c && decide (d.now < e.2))

/-- The recorded XOFF state of a (VE, class) pair (R149). -/
def recXoff (d : Dev) (p v c : Nat) : Bool := ((portOf d p).rxXoff.any fun e => e.1 == (v, c) && decide (d.now < e.2))

/-- A state was in effect at the boundary of tick `t`, ahead of what that tick brought (R440, R520). -/
def heldAt {α : Type} [DecidableEq α] (l since : List (α × Nat)) (k : α) (t : Nat) : Bool :=
  l.any (fun e => e.1 == k && decide (t ≤ e.2)) && decide (kget since k 0 < t)

/-- A class or pair is in PAUSE_IGNORE (R439). -/
def ignoring (q : Port) (c : Nat) : Bool := q.ignore.any fun e => e.1 == c
def veIgnoring (q : Port) (v c : Nat) : Bool := q.veIgnore.any fun e => e.1 == (v, c)

/-- The far end pauses the class, as far as the device heeds it (R429, R439). -/
def classPaused (d : Dev) (p c : Nat) : Bool :=
  let q := portOf d p
  bitOf q.set.rxMask c && recPaused d p c && !ignoring q c && !(isPeerPort d p && c == 7)

/-- The far end stops the VE in the class, as far as the device heeds it (R147, R429, R439). -/
def veStopped (d : Dev) (p v c : Nat) : Bool :=
  bitOf (portOf d p).set.rxMask c && recXoff d p v c && !veIgnoring (portOf d p) v c

/-- The copies in the class queues of a port, by class. -/
def queuedIn (q : Port) (c : Nat) : List Nat := q.set.groups.flatMap fun g => g.2.queues.getD c []

/-- Copies that wait on a port in a class, those of the hold list included. -/
def waitingIn (d : Dev) (p c : Nat) : List Nat :=
  let q := portOf d p
  queuedIn q c ++ q.holdList.filter fun i => (copyOf d i).tc == c

/-- No frame waits in the port's scheduler (R400). -/
def schedEmpty (q : Port) : Bool := q.holdList.isEmpty && (List.range 8).all fun c => (queuedIn q c).isEmpty

/-- Pairs (VE, class) of copies that wait held, or at the head of their class (R438). -/
def waitingPairs (d : Dev) (p : Nat) : List (Nat × Nat) :=
  let q := portOf d p
  let heads := q.set.groups.flatMap fun g => g.2.queues.filterMap (·.head?)
  (q.holdList ++ heads).filterMap fun i => (copyOf d i).ve.map fun v => (v, (copyOf d i).tc)

/-- Start the stall timers of what is stalled now, and clear those of classes and pairs with nothing waiting (R438). -/
def stallCheck (d : Dev) (p : Nat) : Dev :=
  let q := portOf d p
  let waits := fun c => !(waitingIn d p c).isEmpty
  let pairs := waitingPairs d p
  let old := q.stall.filter fun e => waits e.1
  let new := ((List.range 8).filter fun c =>
    waits c && classPaused d p c && q.power == .l0 && !old.any fun e => e.1 == c).map fun c => (c, d.now)
  let oldV := q.veStall.filter fun e => pairs.contains e.1
  let newV := (pairs.eraseDups.filter fun k =>
    veStopped d p k.1 k.2 && q.power == .l0 && !oldV.any fun e => e.1 == k).map fun k => (k, d.now)
  onPort d p fun q => { q with stall := old ++ new, veStall := oldV ++ newV }

end Sys2Proof.Machine
end

