-- ==== Sys2Proof/Machine/Frames.lean ====
section
/-! DEFINITION. The life of frames and copies: when a chain is still in use, its return, drops of frames, copies and
members, and the end of a frame found bad (R310, R311, R321, R350 to R353, R403 to R408, R449, R450). -/

namespace Sys2Proof.Machine

/- Use of chains. -/

/-- A VOQ holds the frame. -/
def inVoq (d : Dev) (i : Nat) : Bool := d.voqs.any fun e => (voqItems e.2).any fun t => t.fid == i

def copiesOf (d : Dev) (i : Nat) : List Copy := d.copies.filter fun c => c.fid == i

/-- The multicast chains of a frame, with their dies. -/
def chainsOf (d : Dev) (i : Nat) : List McChain := (d.dies.flatMap (·.mcIn)).filter fun m => m.fid == i

/-- The frame waits for a punt or tap ring or for the Keeper of some die. -/
def inSlowQueue (d : Dev) (i : Nat) : Bool :=
  d.dies.any fun x => x.puntQ.contains i || x.tapQ.contains i || x.keeperQ.contains i

/-- Somebody still needs the ingress chain (R39, R41, R226, R351): the frame is not decided, waits in a VOQ or for the slow
path, on this die or on its punt home, leaves on its ingress chain, or has not wholly left for its bridge. -/
def chainBusy (d : Dev) (f : Frame) : Bool :=
  f.stage == .ingress || f.stage == .lookup || f.stage == .police || f.stage == .step8
    || (f.stage == .slow && !f.good) || (inSlowQueue d f.id && (chainsOf d f.id).isEmpty)
    || inVoq d f.id || (copiesOf d f.id).any (fun c => c.own || !c.handed)
    || (chainsOf d f.id).any (fun m => m.die == f.die || !m.handed || m.slow)

/-- Something still refers to the frame. -/
def frameBusy (d : Dev) (f : Frame) : Bool :=
  chainBusy d f || f.len.isNone || !(copiesOf d f.id).isEmpty || !(chainsOf d f.id).isEmpty || inSlowQueue d f.id

/-- Cells of a chain that lie in pages. -/
def paged (l : List Loc) : Nat := l.length - (cellsOf l).length

/-- The party that handles the frame and asks to return its chain (R351). -/
def handler (f : Frame) : Owner :=
  if f.punt.isSome || f.toKeeper || f.dest == .tap then .slowPath
  else match f.dest with
    | .group _ => .replication
    | _ => .dequeue

/-- At admission, and at the hand-over to the slow path, the chain's owner is written into the descriptor (R350, R351). -/
def admitted (f : Frame) (st : Stage) : Frame := { f with stage := st, owner := some (handler f), taken := true }

/-- A request to return an admitted chain is refused: the party is not its owner, and the chain stays HELD (R352). -/
def refuseReturn (d : Dev) (n : Nat) (cells : List Nat) : Dev :=
  combRefused (bumpDie d n cntCombFreeNotOwner 1) n (cells.head?.getD 0) 1

/-- `party` asks to return a chain of die `n` that `owner` owns (R351, R352). -/
def returnOwned (d : Dev) (n : Nat) (owner party : Owner) (cells : List Nat) : Dev :=
  if owner != party && !cells.isEmpty then refuseReturn d n cells else returnCells n cells d

/-- Return the ingress chain and its charges (R174, R350, R351), unless the party that asks is not its owner (R352). -/
def releaseChain (d : Dev) (f : Frame) : Dev :=
  if f.owner.any (· != handler f) then refuseReturn d f.die (cellsOf f.chain)
  else
  let pg := paged f.chain
  let d := returnCells f.die (cellsOf f.chain) d
  let d := onDie d f.die fun x => { x with comb := { x.comb with requests := x.comb.requests.filter fun r => r.2.1 != f.id } }
  let d := match f.charged with
    | some (v, t, _) =>
      let d := if f.paid = 0 then d else chargeComb d f.die v t (-((f.paid - pg : Nat) : Int))
      if pg = 0 || f.byKeeper then d else chargeStore d f.die t (-(pg : Int))
    | none => d
  decidePause (onFrame d f.id fun f => { f with chain := [], paid := 0 }) f.port

/-- Somebody else still reads a cell of a frame of VOQ `q` from the comb: another VOQ in whose pages it does not lie, a copy
or chain on the ingress die, or a copy that is leaving for its bridge (R41; DEDUCED, log 38). -/
def combNeeded (d : Dev) (q : VoqKey) (i : Nat) (c : Nat × Nat) : Bool :=
  let f := frameOf d i
  (d.voqs.any fun e => e.1 != q && ((voqItems e.2).any fun t => t.fid == i)
      && !(e.2.pages.any fun p => p.st != .writing && p.cells.contains c))
    || (copiesOf d i).any (fun k => k.own || !k.handed) || (chainsOf d i).any (fun m => m.die == f.die || !m.handed)

/-- A stored cell of a frame that no copy reads from the comb any more leaves the comb (R363). -/
def vacate (d : Dev) (i p : Nat) (c : Nat × Nat) : Dev :=
  let f := frameOf d i
  match f.chain[c.2]? with
  | some (.cell k) => returnCells f.die [k] (onFrame d i fun f => { f with chain := lmod f.chain c.2 fun _ => .page p })
  | _ => d

/-- The cells of a frame that stand in written pages and that other copies have read from the comb until now (R41, R363). -/
def vacateAll (d : Dev) (i : Nat) : Dev :=
  (d.voqs.filter fun e => !e.2.pages.isEmpty).foldl (fun d e =>
    (e.2.pages.filter (·.st == .stored)).foldl (fun d p =>
      (p.cells.filter fun c => c.1 == i && !combNeeded d e.1 i c).foldl (fun d c => vacate d i p.idx c) d) d) d

/-- After a change of what uses a frame: stored cells leave the comb; return its chain and forget the frame, once nothing needs them. -/
def settle (d : Dev) (i : Nat) : Dev :=
  match d.frames.find? fun f => f.id == i with
  | none => d
  | some f =>
    let d := if chainBusy d f then vacateAll d i else if f.chain.isEmpty then d else releaseChain d f
    if frameBusy d f then d else { d with frames := d.frames.filter fun g => g.id != i }

/- Counting. -/

/-- The tenant that a drop of the frame is counted against (R175, R321). -/
def dropTenant (f : Frame) : Option Nat :=
  if !f.passed3 then none else some ((f.charged.map fun c => c.2.1).getD f.src.tenant)

/-- L, or the bytes received so far (R321). -/
def sizeOf' (f : Frame) : Nat := f.len.getD f.bytes.length

/-- The byte counter of the winning rule adds the frame's bytes, once (R221). -/
def countRuleBytes (d : Dev) (f : Frame) : Dev := match f.ruleCnt with
  | some c => onFrame (bump d f.die (c + 1) (sizeOf' f)) f.id fun f => { f with ruleCnt := none }
  | none => d

/-- A group with other class queues: a class or a group whose queues empty has its deficit set to 0 (R460). -/
def groupQueues (x : Group) (qs : List (List Nat)) : Group :=
  { x with
    queues := qs
    classD := List.zipWith (fun l v => if l.isEmpty then 0 else v) qs x.classD
    deficit := if qs.all (·.isEmpty) then 0 else x.deficit }

/-- A copy leaves its scheduler, also when it has been selected to start next, the hold list and the residue. What is stalled
on its port is judged again (R438). -/
def unqueue (d : Dev) (c : Copy) : Dev :=
  let out := fun l : List Nat => l.filter (· != c.id)
  let d := onPort d c.port fun q => { q with
    set := { q.set with groups := q.set.groups.map fun g => (g.1, groupQueues g.2 (g.2.queues.map out)) }
    holdList := out q.holdList
    next := q.next.filter fun k => k.1 != c.id
    lastWait := if c.arrived then d.now else q.lastWait }
  let d := onSlice d c.die (sliceOfPort c.port) fun x => { x with idleAt := d.now }
  stallCheck (onDie d c.die fun x => { x with residue := out x.residue }) c.port

/-- The multicast record of a frame's group on a die. -/
def groupOfFrame (d : Dev) (n : Nat) (f : Frame) : Option McGroup := match f.dest with
  | .group g => some (groupOf (dieOf d n).tab g)
  | _ => none

/-- The dies of a group's members, ascending (R442). -/
def groupDies (g : McGroup) : List Nat := (List.range 8).filter fun e => g.members.any fun m => m.2 == e

/-- Count in the group's general counters on a die, by the record under which the die resolves the frame (R444, R450). -/
def countGroup (d : Dev) (n : Nat) (f : Frame) (off : Nat) : Dev :=
  match (dieOf d n).mcIn.find? fun m => m.fid == f.id && m.begun with
  | some m => if m.grp.cntEn then bump d n (m.grp.counter + off) 1 else d
  | none => d

/-- A member of a die is resolved: its copy was transmitted or dropped; a die with both counts the frame once
(R450). -/
def memberDone (d : Dev) (n i : Nat) (sent : Bool) : Dev :=
  let d := onFrame d i fun f => if sent then { f with mcSent := n :: f.mcSent } else { f with mcDrop := n :: f.mcDrop }
  let f := frameOf d i
  let d := countGroup d n f (if sent then 1 else 2)
  if f.mcSent.contains n && f.mcDrop.contains n && !f.mcPart.contains n then
    countGroup (bumpDie (onFrame d i fun f => { f with mcPart := n :: f.mcPart }) n cntMcPartial 1) n f 3
  else d

def onChain (d : Dev) (n i : Nat) (g : McChain → McChain) : Dev :=
  onDie d n fun x => { x with mcIn := x.mcIn.map fun m => if m.fid = i then g m else m }

/-- The VOQ of a unicast or multicast frame towards a die. -/
def voqOfFrame (f : Frame) (mcDie : Option Nat) : VoqKey := match mcDie with
  | some e => ⟨f.die, true, e, f.tc⟩
  | none => ⟨f.die, false, f.egPort, f.tc⟩

/-- Give back the credit that a cut-through frame did not use: the cells return to the VOQ's BALANCE, or to their pool when
the VOQ may not keep any (R386 to R388, R410). -/
def refund (d : Dev) (q : VoqKey) (n : Nat) (cells : List Nat) : Dev :=
  let d := onVoq d q fun v => { v with balance := v.balance + (38 - n), room := v.room ++ cells.drop n }
  if q.mc || portUp d q.target then d else returnBalance d q

/-- Cells that a frame has used at its end, or so far. -/
def usedAtEnd (f : Frame) : Nat := min 38 (cellCount (sizeOf' f))

/-- The cells of the chain of a copy or multicast chain that is given up while it leaves by cut-through, when `cut`: those that
its frame did not use return to the VOQ (R386). -/
def giveUp (d : Dev) (f : Frame) (q : VoqKey) (cut : Bool) (cells : List Nat) : List Nat × Dev :=
  if cut && alive d q.die && alive d (voqDie q) then (cells.take (usedAtEnd f), refund d q (usedAtEnd f) cells) else (cells, d)

/-- A multicast chain whose members are all resolved, or a crossed slow-path chain that is done with, is returned by its
owner (R43, R351, R449). -/
def settleChain (d : Dev) (n i : Nat) : Dev :=
  match (dieOf d n).mcIn.find? fun m => m.fid == i with
  | none => d
  | some m =>
    if !m.begun || !m.left.isEmpty || m.open' != 0 || !m.ended then d
    else
      let f := frameOf d i
      let x := giveUp d f (voqOfFrame f (some n)) (openCutChain f m) m.cells
      settle (returnOwned (onDie x.2 n fun x => { x with mcIn := x.mcIn.filter fun m => m.fid != i }) n m.owner
        (if m.slow then .slowPath else .replication) x.1) i

/-- Forget a copy: its cells return, its credits close and its member is resolved (R39, R351, R382, R386, R449). -/
def forgetCopy (d : Dev) (c : Copy) : Dev :=
  let d := unqueue { d with copies := d.copies.filter fun x => x.id != c.id } c
  let d := onPort d c.port fun q => { q with sent := q.sent - c.ncells }
  let f := frameOf d c.fid
  let x := giveUp d f (voqOfFrame f none) (openCut c) c.cells
  let d := returnOwned x.2 c.die c.owner .dequeue x.1
  let d := if c.mc then settleChain (onChain d c.die c.fid fun m => { m with open' := m.open' - 1 }) c.die c.fid else d
  settle d c.fid

/-- The mirror copies of a frame. -/
def mirrorsOf (d : Dev) (i : Nat) : List Frame :=
  d.frames.filter fun f => f.kind != .received && f.kind != .keeper && f.orig == i && !f.dropped

/-- The copy is being transmitted. -/
def isSending (d : Dev) (c : Copy) : Bool := (portOf d c.port).tx.any fun t => t.copy == c.id

/-- A cause ends copies of a frame on a die (R403): one in transmission will be stomped, one whose first flit has not arrived
is forgotten, and one that waits is discarded when its owner reaches it (R353, R407, R408). -/
def abortCopies (d : Dev) (l : List Copy) (reason code : Nat) : Dev :=
  l.foldl (fun d c => if !c.arrived then forgetCopy d c
    else onCopy d c.id fun c => { c with bad := some (reason, code), ended := true, handed := true }) d

/-- The multicast chain of a bad frame on a die makes no more copies: it is marked ABORTED, and its replication engine returns
it when it reaches the descriptor, which it has when judging has begun (R353). A chain for a ring, or one of which nothing
has arrived, waits in no queue. -/
def abortChain (d : Dev) (n i : Nat) : Dev :=
  settleChain (onChain d n i fun m => { m with left := [], begun := m.begun || m.slow || !m.arrived, ended := true, aborted := true }) n i

/- Streams that left by cut-through (R386, R390, R400, R407). -/

/-- A unicast copy that left by cut-through comes to the frame's end: unused credit returns, and the rest of the frame
crosses with END, and with BAD when the frame is bad (R386, R390, R407). -/
def closeCopy (d : Dev) (f : Frame) (bad : Bool) (c : Copy) : Dev :=
  let n := usedAtEnd f
  let q := voqOfFrame f none
  let d := onPort (refund d q n c.cells) c.port fun p => { p with sent := p.sent - (38 - n) }
  let d := onCopy d c.id fun c => { c with cells := c.cells.take n, ncells := n, ended := c.own && !bad, handed := true }
  if c.own then d else (pushStream d f q c.via c.secs false c.ecn true bad).2

/-- The same of a multicast chain. -/
def closeChain (d : Dev) (f : Frame) (bad : Bool) (m : McChain) : Dev :=
  let n := usedAtEnd f
  let q := voqOfFrame f (some m.die)
  let own := m.die == f.die
  let d := onChain (refund d q n m.cells) m.die f.id fun m =>
    { m with cells := m.cells.take n, ncells := n, ended := own && !bad, handed := true }
  if !own then (pushStream d f q m.via m.secs m.slow m.ecn true bad).2
  else if bad then d
  else { d with copies := d.copies.map fun c => if c.fid = f.id && c.die = m.die then { c with ended := true } else c }

/-- Every stream of a frame that is still open comes to the frame's end. -/
def closeStreams (d : Dev) (f : Frame) (bad : Bool) : Dev :=
  let d := ((copiesOf d f.id).filter openCut).foldl (fun d c => closeCopy d f bad c) d
  ((chainsOf d f.id).filter (openCutChain f)).foldl (fun d m => closeChain d f bad m) d

/-- More of a frame that crosses by cut-through can leave for its bridges (R390). -/
def advanceStreams (d : Dev) (i : Nat) : Dev :=
  let f := frameOf d i
  let d := ((copiesOf d i).filter fun c => openCut c && !c.own).foldl (fun d c =>
    let x := pushStream d f (voqOfFrame f none) c.via c.secs false c.ecn false false
    onCopy x.2 c.id fun c => { c with secs := x.1 }) d
  ((chainsOf d i).filter fun m => openCutChain f m && m.die != f.die).foldl (fun d m =>
    let x := pushStream d f (voqOfFrame f (some m.die)) m.via m.secs m.slow m.ecn false false
    onChain x.2 m.die i fun m => { m with secs := x.1 }) d

/-- A frame has ended well and has all its cells: its open streams are ended, and it may join HEAD or a page (R363, R368,
R386, R390). -/
def endStreams (d : Dev) (i : Nat) : Dev :=
  let f := frameOf d i
  if !wholeOk f then d
  else settleSpill (settle ((chainsOf d i).foldl (fun d m => settleChain d m.die i) (closeStreams d f false)) i) i

/-- What has left of a bad frame, or is about to, on every die (R403, R407): a stream still open towards another die is
ended with BAD. -/
def abortOut (d : Dev) (f : Frame) (reason code : Nat) : Dev :=
  let d := { d with voqs := d.voqs.map fun e =>
    let mark := fun t : VItem => if t.fid = f.id then { t with aborted := true } else t
    (e.1, { e.2 with head := e.2.head.map mark, mid := e.2.mid.map mark, tail := e.2.tail.map mark }) }
  let d := settleSpill d f.id
  let cs := copiesOf d f.id
  let ms := chainsOf d f.id
  let d := closeStreams d f true
  let d := abortCopies d (cs.filter fun c => c.die == f.die) reason code
  (ms.filter fun m => m.die == f.die).foldl (fun d m => abortChain d m.die f.id) d

/-- Some copy of the frame has begun to leave an egress port. -/
def hasBegun (d : Dev) (i : Nat) : Bool := (copiesOf d i).any (isSending d)

/-- What a frame or copy that waits for a punt or tap ring of die `n` has received on its way there (R463). -/
def slowOps (d : Dev) (n : Nat) (f : Frame) : Nat :=
  receivedOps d f { die := n, mc := true, own := n == f.die, via := (((dieOf d n).mcIn.find? fun m => m.fid == f.id).map (·.via)).getD 0 }

/- Lengths of mirror copies (R308, R309, R312). -/

/-- Bytes of the copy frame without its FCS for a frame of which `have'` bytes have arrived (R308). -/
def copyBytes (m : Mirror) (len : Option Nat) (have' : Nat) : Nat :=
  match len with
  | some l => if m.trunc = 0 then l - 4 else min (l - 4) m.trunc
  | none => if m.trunc = 0 then have' else min have' m.trunc

/-- Bytes of a GRE frame around a copy frame of `n` bytes without FCS (R312). -/
def greOver (m : Mirror) : Nat := 14 + (if m.vlan then 4 else 0) + 20 + 4 + (if m.seqEn then 4 else 0) + 16 + 4

/-- Bytes of the copy frame that a session sends: a GRE frame is cut to 9,728 bytes (R312). -/
def sentBytes (m : Mirror) (n : Nat) : Nat := if m.kind = 1 then min n (9728 - greOver m) else n

/-- Bytes that the copy will send, encapsulation included (R309). -/
def mirrorCost (m : Mirror) (n : Nat) : Nat := if m.kind = 1 then sentBytes m n + greOver m else n + 4

/-- L of a frame or copy that is dropped, or the bytes received up to the drop: a mirror copy that the limiter has not yet
judged has received what its frame has, up to TRUNC (R321). -/
def dropSize (d : Dev) (f : Frame) : Nat :=
  if f.mirSize != 0 then f.mirSize
  else if f.mirLimit then sizeOf' f
  else
    let o := frameOf d f.orig
    let n := copyBytes f.mirSes o.len o.bytes.length
    if o.len.isSome then mirrorCost f.mirSes n else n

/-- The Spindle stomp reason of a cause that ends a copy on its own (R403). -/
def ownCode (reason : Nat) : Nat := if reason = drUeCell then 4 else 5

/-- Drop a mirror, host or Keeper copy on die `n`; what has begun to leave is stomped (R310, R403, R311, R315). A host copy has the drop
port of its frame. -/
def dropCopyOn (d : Dev) (n : Nat) (f : Frame) (reason : Nat) : Dev :=
  if f.dropped then d
  else
  let port := if f.kind = .copyHost then some f.port else if f.dest == .port then some f.egPort else none
  let d := countDrop d n port (dropTenant f) reason (dropSize d f)
  let d := feedEnergy d n f (if n = f.die then 0 else slowOps d n f)
  let d := match f.kind with
    | .mirror s _ => bump d n (slotMirror s 2) 1
    | _ => d
  settle (abortOut (onFrame d f.id fun f => { f with
    dropped := true
    stage := .gone
    bad := some (reason, ownCode reason)
    kept := min f.kept f.bytes.length
    len := some (sizeOf' f) }) f reason (ownCode reason)) f.id

def dropCopyFrame (d : Dev) (f : Frame) (reason : Nat) : Dev := dropCopyOn d f.die f reason

/-- The mirror copies of a frame that is dropped or found bad: begun ones are stomped, the others are dropped under the
frame's reason when nothing of the frame has begun to leave, and else discarded (R311, R408); its host copy is
discarded. -/
def dropMirrors (d : Dev) (f : Frame) (reason code : Nat) : Dev :=
  let begun := hasBegun d f.id
  (mirrorsOf d f.id).foldl (fun d m =>
    if m.kind = .copyHost || begun || hasBegun d m.id then
      settle (abortOut (onFrame d m.id fun x => { x with
        stage := .gone
        dropped := true
        bad := some (reason, code)
        len := some (sizeOf' x)
        origLen := some (x.origLen.getD (sizeOf' f)) }) m reason code) m.id
    else dropCopyFrame d m reason) d

/-- The egress mirror copy of a multicast copy that is dropped on its egress die: it is stomped when it has begun to leave, and
else dropped under the copy's reason (R311). -/
def dropMirrorsOf (d : Dev) (c : Copy) (reason code : Nat) : Dev :=
  let own := fun m : Frame => m.die == c.die && m.mirPort == c.port && (match m.kind with
    | .mirror _ e => e
    | _ => false)
  ((mirrorsOf d c.fid).filter own).foldl (fun d m =>
    if hasBegun d m.id then
      settle (abortOut (onFrame d m.id fun x => { x with
        stage := .gone
        dropped := true
        bad := some (reason, code)
        len := some (sizeOf' x)
        origLen := some (x.origLen.getD (sizeOf' (frameOf d c.fid))) }) m reason code) m.id
    else dropCopyFrame d m reason) d

/-- Count the drop of a copy on its egress die (R321, R450), with Spindle stomp reason `code`; a mirror copy counts in its
session too, and the mirror copies of a unicast frame, or of this copy of a multicast frame, end with it (R311). -/
def countCopyDrop (d : Dev) (c : Copy) (reason code : Nat) : Dev :=
  let f := frameOf d c.fid
  let d := feedEnergy (countDrop d c.die (some c.port) (dropTenant f) reason (dropSize d f)) c.die f
    (if c.fed || c.ops != 0 then 0 else receivedOps d f c)
  match f.kind with
  | .mirror s _ => bump d c.die (slotMirror s 2) 1
  | .received => if c.mc then dropMirrorsOf (memberDone d c.die c.fid false) c reason code
    else dropMirrors (onFrame d c.fid fun f => { f with dropped := true }) f reason code
  | _ => d

/- Transmit timestamps (R507 to R511). -/

/-- The egress time domain of a copy (R507). -/
def txDomain (c : Copy) (f : Frame) : Nat := match f.kind with
  | .mirror _ _ => f.mirDom
  | .keeper => f.mirDom
  | _ => c.eg.domain

/-- Entries in the order of their timestamps, those of one grain tick by port (R509). -/
def insertTxts (e : Txts) : List Txts → List Txts
  | [] => [e]
  | a :: r => if a.tick / 16 < e.tick / 16 || (a.tick / 16 = e.tick / 16 && a.port ≤ e.port) then a :: insertTxts e r else e :: a :: r

/-- EV_TXTS when the queue was empty (R511). -/
def raiseTxts (d : Dev) (n : Nat) : Dev :=
  if mayRaise d (dieOf d n).txtsAt (10 * us) then raise (onDie d n fun x => { x with txtsAt := some d.now }) n evTxts []
  else d

/-- The transmit timestamp entry of a copy that asks for one (R508 to R511). -/
def addTxts (d : Dev) (p : Nat) (c : Copy) (f : Frame) (t : Tx) (stomped : Bool) : Dev :=
  let n := c.die
  let q := (dieOf d n).txts
  if !f.tsReq then d
  else if q.length ≥ 64 then bumpDie (onDie d n fun x => { x with txOver := true }) n cntTxtsOverflow 1
  else
    let e : Txts := { tsId := f.tsId, port := p, ve := f.ve, domain := txDomain c f, stomped := stomped,
                      time := t.ns.getD (txDomain c f) 0 % two32, tick := t.point }
    let d := onDie d n fun x => { x with txts := insertTxts e x.txts }
    if q.isEmpty then raiseTxts d n else d

/-- A copy that is cut off in transmission after its timestamp point has passed gets its entry, and is not stomped (R508;
DEDUCED, log 18). -/
def cutTxts (d : Dev) (c : Copy) : Dev := match (portOf d c.port).tx with
  | some t => if t.copy == c.id && decide (t.point ≤ sinceStart d) then addTxts d c.port c (frameOf d c.fid) t false else d
  | none => d

/-- Drop a copy at its egress die (R321); one whose frame was counted already is only discarded (R353, R408). -/
def dropCopy (d : Dev) (c : Copy) (reason : Nat) : Dev :=
  let d := cutTxts d c
  forgetCopy (if c.bad.isSome then d else countCopyDrop d c reason 5) c

/-- The frame leaves the queues of the ingress pipeline; on the slow path its owner has yet to reach it (R353). -/
def leaveQueues (d : Dev) (f : Frame) : Dev :=
  onDie d f.die fun x => { x with
    slices := x.slices.map fun s => { s with queue := s.queue.filter (· != f.id) }
    comb := { x.comb with requests := x.comb.requests.filter fun r => r.2.1 != f.id } }

/- Reception counts (R734). -/

/-- Count a frame as received once its end has passed the checks and its class and tenant are decided (R734). -/
def countReceived (d : Dev) (i : Nat) : Dev :=
  let f := frameOf d i
  if !f.good || f.counted || f.stage == .ingress || f.stage == .lookup || f.kind != .received then d
  else
    let l := sizeOf' f
    let d := onFrame d i fun f => { f with counted := true }
    let d := bumpPort (bumpPort d f.port (cntRxFrames + f.tc) 1) f.port (cntRxBytes + f.tc) l
    match dropTenant f with
    | some t => bump (bump d f.die (slotTenant t cntTenRxFrames) 1) f.die (slotTenant t cntTenRxBytes) l
    | none => d

/-- Drop a frame on die `n` at steps 1 to 8 or on its slow path, under one reason (R36, R321). -/
def dropFrameOn (d : Dev) (n i reason : Nat) : Dev :=
  let f := frameOf d i
  if f.dropped then d
  else
    let d := countDrop d n (some f.port) (dropTenant f) reason (sizeOf' f)
    let d := if f.passed3 then feedEnergy d n f (if n = f.die then 0 else slowOps d n f) else d
    let d := dropMirrors (countRuleBytes d f) f reason 5
    let d := countReceived (onFrame d i fun f => { f with dropped := true, stage := .gone }) i
    settle (leaveQueues d f) i

/-- Drop a frame on its ingress die. -/
def dropFrame (d : Dev) (i reason : Nat) : Dev := dropFrameOn d (frameOf d i).die i reason

/-- A frame is found bad (R403): before it is admitted it is dropped; afterwards it is counted once at its ingress,
whatever has left is stomped and the rest is discarded (R353, R407, R408). -/
def badFrame (d : Dev) (i reason code : Nat) : Dev :=
  let f := frameOf d i
  if f.dropped then d
  else if f.stage != .admitted then dropFrame d i reason
  else
    let d := countDrop d f.die (some f.port) (dropTenant f) reason (sizeOf' f)
    let d := feedEnergy d f.die f 0
    let d := dropMirrors (countRuleBytes d f) f reason code
    let d := onFrame d i fun f => { f with
      dropped := true
      bad := some (reason, code)
      kept := min f.kept (min f.bytes.length (256 * f.chain.length)) }
    settle (abortOut d f reason code) i

end Sys2Proof.Machine
end

