-- ==== Sys2Proof/Machine/Admit.lean ====
section
/-! DEFINITION. Admission to a VOQ at step 8 (R355 to R362, R373, R410, R419 to R425, R436, R443). -/

namespace Sys2Proof.Machine

/- Measures of a VOQ (R355, R361, R420). -/

/-- The WRED profile of a VOQ (R419). -/
def wredOf (d : Dev) (q : VoqKey) : Wred :=
  let x := dieOf d q.die
  kget x.wreds (kget x.tab.wredBind (q.mc, q.target, q.tc) 0) {}

/-- ⌊α × S / 2^k⌋ for a code ALPHA and a colour (R356). -/
def alphaCells (alpha s colour : Nat) : Nat := s * 2 ^ alpha / 2 ^ (6 + colour)

/-- The occupancy passes a threshold (R356, R357). -/
def passes (alpha minCells s colour use : Nat) : Bool := alpha == 15 || decide (use < max minCells (alphaCells alpha s colour))

/-- The store-full rule drops a frame for the VOQ (R373). -/
def storeFull (d : Dev) (q : VoqKey) : Bool :=
  let v := voqOf d q
  let m := (bufOf d q).storeMax
  v.spill && (freePages (dieOf d q.die) == 0 || (m != 0 && decide (v.pages.length ≥ m)))

/-- The outcome of the WRED decision. -/
inductive Early where
  | queued
  | mark
  | drop
  deriving DecidableEq, Repr

/-- Draw a number of the die's generator (R422). -/
def draw (d : Dev) (n : Nat) : Nat × Dev :=
  ((Config.draw16 n (dieOf d n).draws).toNat, onDie d n fun x => { x with draws := x.draws + 1 })

/-- The ECN field of a frame's outermost IP header (R423); that of a GRE copy is 0 (R312). -/
def ecnField (f : Frame) : Nat :=
  if f.mirSes.kind = 1 then 0
  else if f.parsed.ktype = 1 then byteAt f.bytes (f.parsed.l3 + 1) % 4
  else if f.parsed.ktype = 2 then byteAt f.bytes (f.parsed.l3 + 1) / 16 % 4 else 0

/-- The WRED decision of a VOQ for a frame (R421 to R423). -/
def wredJudge (d : Dev) (q : VoqKey) (f : Frame) : Early × Dev :=
  let w := wredOf d q
  if !w.enable then (.queued, d)
  else
    let d := if w.weight = 0 then onVoq d q fun v => { v with avg := 256 * depthOf d v } else d
    let avg := (voqOf d q).avg
    let lo := w.minC.getD f.colour 0
    let hi := w.maxC.getD f.colour 0
    if avg < 256 * lo then (.queued, d)
    else if avg ≥ 256 * hi then (.drop, d)
    else
      let p16 := w.pmax.getD f.colour 0 * (avg - 256 * lo) / (hi - lo)
      let r := draw d q.die
      if r.1 ≥ p16 then (.queued, r.2)
      else if w.ecn && f.parsed.ktype != 0 && ecnField f != 0 then
        (.mark, bumpPort r.2 f.port cntEcnMark 1)
      else (.drop, r.2)

/-- The frame is lossless at step 8: store-full alone is judged (R436). -/
def losslessNow (d : Dev) (f : Frame) : Bool :=
  let s := (portOf d f.port).set
  let cells := match f.len with
    | some l => cellCount l
    | none => 38
  f.kind == .received && bitOf s.lossless f.tc
    && decide (losslessCount d f.port f.tc + cells ≤ s.xoffTh + s.headroom)

/-- The tenant threshold passes (R357). -/
def tenantPasses (d : Dev) (f : Frame) : Bool :=
  let x := dieOf d f.die
  let t := (f.charged.map fun c => c.2.1).getD 0
  passes (kget x.tab.tenAlpha t 15) 0 (sharedFree x.comb) f.colour (kget x.combUse t 0)

def voqPasses (d : Dev) (q : VoqKey) (f : Frame) : Bool :=
  let b := bufOf d q
  passes b.alpha b.minCells (sharedFree (combOf d q.die)) f.colour (occupancy d (voqOf d q))

/-- The checks of R358 for one VOQ: a drop reason, or whether the copy is marked. A multicast copy has had its tenant
threshold judged before (R359). -/
def judgeVoq (d : Dev) (q : VoqKey) (f : Frame) : (Nat ⊕ Bool) × Dev :=
  if losslessNow d f then (if storeFull d q then .inl drStoreFull else .inr false, d)
  else if !voqPasses d q f then (.inl drWred, d)
  else if !q.mc && !tenantPasses d f then (.inl drWred, d)
  else if storeFull d q then (.inl drStoreFull, d)
  else
    let r := wredJudge d q f
    (match r.1 with
      | .queued => .inr false
      | .mark => .inr true
      | .drop => .inl drWred, r.2)

/- Credit requests (R381, R383, R385, R386). -/

/-- VOQ_CAP (R383, R385). -/
def voqCap (d : Dev) (q : VoqKey) : Nat := 16 * max 3 (ceilDiv (if q.mc then 32 else windowOf d q.target) 4)

/-- Cells that a frame needs of its VOQ's BALANCE: those of its bytes; while its length is not known, the 38 of the longest
frame (R386; DEDUCED, log 37). -/
def frameCells (f : Frame) : Nat := match f.len with
  | some l => cellCount l
  | none => if f.kind = .copyHost then cellCount f.bytes.length else 38

/-- Cells of the queued frames of a VOQ, pages as 16 cells each (R383). -/
def queuedCellsOf (d : Dev) (v : Voq) : Nat :=
  ((voqItems v).map fun t => frameCells (frameOf d t.fid) - inPages v t.fid).sum + 16 * v.pages.length

/-- The head frame of a VOQ waits for more BALANCE (R386). -/
def headShort (d : Dev) (v : Voq) : Bool := match v.head with
  | [] => false
  | t :: _ => decide (v.balance < frameCells (frameOf d t.fid))

/-- A VOQ requests the credits that its demand asks for: one for every 16 cells, and one for 1 to 15 when it holds no
request. BALANCE and requests stay within VOQ_CAP, but for the credit that the head frame cannot be sent without (R383,
R386; DEDUCED, log 37). -/
def askCredits (d : Dev) (q : VoqKey) : Dev := onVoq d q fun v =>
  let cap := voqCap d q
  let demand := min (queuedCellsOf d v) cap - v.balance - v.asked
  let v := { v with asked := v.asked + 16 * (demand / 16) }
  let rest := demand % 16
  if rest != 0 && v.asked == 0 && (decide (v.balance + 16 ≤ cap) || headShort d v) then { v with asked := 16 } else v

/-- A frame joins a VOQ: HEAD in NORMAL, TAIL in SPILL; an admission that brings O to SPILL_ON enters SPILL (R362). The
cells that the frame has requested count in O, as step 7 comes before step 8 (R35; DEDUCED, log 38). -/
def enqueue (d : Dev) (q : VoqKey) (t : VItem) : Dev :=
  let b := bufOf d q
  let was := (voqOf d q).spill
  let coming := (frameOf d t.fid).asked - chainLen d t.fid
  let t := { t with at' := d.now }
  let d := onVoq d q fun v =>
    let v := if v.spill then { v with tail := v.tail ++ [t] } else { v with head := v.head ++ [t] }
    if !v.spill && b.spillEn && decide (occupancy d v + coming ≥ b.spillOn) then { v with spill := true } else v
  askCredits (if was then settleVoq d q else d) q

/-- Why step 8 drops every frame for an egress port, if it does (R85, R388, R410). -/
def portRefuses (d : Dev) (p : Nat) : Option Nat :=
  let q := portOf d p
  if (dieOf d (dieOfPort p)).lost then some drDieLost
  else if q.link = .quarantine then some drQuarantine
  else if q.link = .up then none else some drPortDown

/-- Step 8 of a unicast frame or of a mirror copy for a port (R358). -/
def admitUnicast (d : Dev) (f : Frame) : Dev :=
  let q : VoqKey := ⟨f.die, false, f.egPort, f.tc⟩
  let out := fun (d : Dev) r => if f.kind = .received then dropFrame d f.id r else dropCopyFrame d f r
  match portRefuses d f.egPort with
  | some r => out d r
  | none =>
    let j := judgeVoq d q f
    match j.1 with
    | .inl r => out j.2 r
    | .inr ecn =>
      let d := onFrame j.2 f.id fun f => { admitted f .admitted with ecn := ecn }
      decidePause (enqueue d q { fid := f.id, ecn := ecn }) f.port

/-- A frame or copy on its way to another die for a punt or tap ring joins that die's multicast VOQ, when step 8 lets it
(R358, R359, R379, R410). A mirror copy has no charged tenant whose threshold it could pass (R310). -/
def admitSlow (d : Dev) (f : Frame) (home tc : Nat) : Dev :=
  let q : VoqKey := ⟨f.die, true, home, tc⟩
  let out := fun (d : Dev) r => if f.kind = .received then dropFrame d f.id r else dropCopyFrame d f r
  if (dieOf d home).lost then out d drDieLost
  else if f.dest != .tap && !losslessNow d f && !tenantPasses d f then out d drWred
  else
    let j := judgeVoq d q f
    match j.1 with
    | .inl r => out j.2 r
    | .inr ecn =>
      let d := onFrame j.2 f.id fun f => admitted f .admitted
      decidePause (enqueue d q { fid := f.id, slow := true, ecn := ecn }) f.port

/-- Judge the copies of a multicast frame for its dies: the refusals, and the VOQs it joins with their marks (R359,
R410, R425). -/
def judgeCopies (f : Frame) : List Nat → Dev → (List (Nat × Nat) × List (VoqKey × Bool)) × Dev
  | [], d => (([], []), d)
  | e :: r, d =>
    let q : VoqKey := ⟨f.die, true, e, f.tc⟩
    let j := if (dieOf d e).lost then (Sum.inl drDieLost, d) else judgeVoq d q f
    let y := judgeCopies f r j.2
    match j.1 with
    | .inl c => (((e, c) :: y.1.1, y.1.2), y.2)
    | .inr m => ((y.1.1, (q, m) :: y.1.2), y.2)

/-- Step 8 of a multicast frame (R359, R443). -/
def admitMulticast (d : Dev) (f : Frame) (g : McGroup) : Dev :=
  let dies := groupDies g
  if !g.valid || dies.isEmpty then dropFrame d f.id drEgressDeny
  else if !losslessNow d f && !tenantPasses d f then dropFrame d f.id drWred
  else
    let j := judgeCopies f dies d
    match j.1.2, j.1.1 with
    | [], r => dropFrame j.2 f.id ((r.head?.map (·.2)).getD drWred)
    | ok, refused =>
      let d := refused.foldl (fun d r =>
        let d := countDrop d f.die (some f.port) (dropTenant f) r.2 (sizeOf' f)
        if wholeFrame f then feedEnergy d f.die f 0 else d) j.2
      let d := onFrame d f.id fun f => admitted f .admitted
      decidePause (ok.foldl (fun d k => enqueue d k.1 { fid := f.id, ecn := k.2 }) d) f.port

/-- Step 8 of R35 for a frame whose destination is known; a refusal held since step 7 drops it (R733). -/
def admitFrame (d : Dev) (i : Nat) : Dev :=
  let f := frameOf d i
  match f.held with
  | some r => dropFrame d i r.1
  | none => match f.dest with
    | .group g => admitMulticast d f (groupOf (dieOf d f.die).tab g)
    | _ => admitUnicast d f

end Sys2Proof.Machine
end

