-- ==== Sys2Proof/Machine/Rewrite.lean ====
section
/-! DEFINITION. The bytes that leave an egress port: egress rewrite of forwarded frames, GRE copies, and the start
header (R103 to R110, R246, R307, R308, R312, R313, R424, R513). -/

namespace Sys2Proof.Machine

/- One's complement sums. -/

/-- A sum of 16-bit words with the carries folded in. -/
def fold16 (n : Nat) : Nat :=
  let a := n % 65536 + n / 65536
  let b := a % 65536 + a / 65536
  b % 65536 + b / 65536

/-- The sum of the 16-bit words of a byte string of even length, in network byte order. -/
def wordSum : List Byte → Nat
  | a :: b :: r => a.toNat * 256 + b.toNat + wordSum r
  | [a] => a.toNat * 256
  | [] => 0

/-- An IPv4 header with its checksum recomputed. -/
def ipv4Sum (h : List Byte) : List Byte :=
  let z := splice h 10 [0, 0]
  splice z 10 (beBytes 2 (65535 - fold16 (wordSum z)))

/-- The frame with the checksum of the IPv4 header at `o` recomputed (R246, R424); a header whose IHL is less than 5 counts
as its fixed 20 bytes (R205). -/
def fixIpv4 (l : List Byte) (o : Nat) : List Byte :=
  splice l o (ipv4Sum (slice l o (max 5 (byteAt l o % 16) * 4)))

/-- A UDP checksum after some words of its datagram have changed (R513): a checksum of 0 over IPv4 stays 0. -/
def udpSum (old : Nat) (before after : List Byte) (v4 : Bool) : Nat :=
  if old = 0 && v4 then 0
  else
    let inv := fold16 (65535 - old + wordSum (before.map (~~~·)) + wordSum after)
    if inv = 65535 then 65535 else 65535 - inv

/- The rewrite of a forwarded frame. -/

/-- Addresses and TTL or Hop Limit of a routed frame (R246). -/
def rewriteRoute (f : Frame) (l : List Byte) : List Byte := match f.route with
  | none => l
  | some (nh, own) =>
    let l := splice l 0 (beBytes 6 nh ++ beBytes 6 own)
    let o := f.parsed.l3
    if f.parsed.ktype = 1 then fixIpv4 (splice l (o + 8) (leBytes 1 (byteAt l (o + 8) - 1))) o
    else splice l (o + 7) (leBytes 1 (byteAt l (o + 7) - 1))

/-- The mark of a marked frame: the outermost ECN field becomes 0b11 (R424). -/
def rewriteEcn (f : Frame) (l : List Byte) : List Byte :=
  let o := f.parsed.l3 + 1
  if f.parsed.ktype = 1 then
    if byteAt l o % 4 = 3 then l else fixIpv4 (splice l o (leBytes 1 (byteAt l o ||| 3))) f.parsed.l3
  else splice l o (leBytes 1 (byteAt l o ||| 0x30))

/-- The residence time in a PTP event message, with the UDP checksum (R513). -/
def rewritePtp (f : Frame) (corr : Int) (l : List Byte) : List Byte := match f.parsed.ptp with
  | none => l
  | some o =>
    let before := slice l (o + 8) 8
    let after := beBytes 8 (unsignedOf 64 (signedOf 64 (ofBe before) + corr))
    let l := splice l (o + 8) after
    match f.parsed.ptpUdp with
    | none => l
    | some u => splice l (u + 6) (beBytes 2 (udpSum (be l (u + 6) 2) before after (f.parsed.ktype == 1)))

/-- The bytes of a forwarded frame after egress rewrite, without its FCS. -/
def rewriteBytes (f : Frame) (c : Copy) (l : List Byte) : List Byte :=
  let l := rewriteRoute f l
  let l := if c.ecn then rewriteEcn f l else l
  match c.corr with
  | some k => rewritePtp f k l
  | none => l

/- GRE copies (R312, R313). -/

/-- The mirror header. -/
def mirrorHeader (session : Nat) (egress truncated : Bool) (origLen : Nat) (f : Frame) : List Byte :=
  leBytes 1 (0x10 + atBit 3 egress + atBit 2 truncated) ++ leBytes 1 session ++ beBytes 2 origLen ++ beBytes 2 f.mirPort
    ++ beBytes 2 (f.mirVe + f.mirTc * 4096) ++ beBytes 2 (f.mirTen + f.mirColour * 1024 + f.mirDom * 4096) ++ beBytes 2 0
    ++ beBytes 4 f.mirNs

/-- The GRE frame around `body`, which is the mirror header and the copy frame without its FCS. -/
def greFrame (m : Mirror) (seq : Nat) (body : List Byte) : List Byte :=
  let gre := beBytes 2 (if m.seqEn then 0x1000 else 0) ++ beBytes 2 m.proto ++ (if m.seqEn then beBytes 4 seq else [])
  let ip := beBytes 2 (0x4500 + m.dscp * 4) ++ beBytes 2 (20 + gre.length + body.length) ++ beBytes 2 0 ++ beBytes 2 0x4000
    ++ leBytes 1 m.ttl ++ leBytes 1 47 ++ beBytes 2 0 ++ padTo 4 m.sip ++ padTo 4 m.dip
  let eth := padTo 6 m.dmac ++ padTo 6 m.smac ++ (if m.vlan then beBytes 2 0x8100 ++ beBytes 2 m.tci else []) ++ beBytes 2 0x0800
  withFcs (eth ++ ipv4Sum ip ++ gre ++ body)

/- Sizes and the start header. -/

/-- Bytes that a frame or copy sends, FCS included. -/
def wireBytes (f : Frame) : Nat := if f.mirSize = 0 then sizeOf' f else f.mirSize

/-- The bytes of a GRE copy with sequence number `seq` (R312, R313). -/
def greBytes (f : Frame) (session : Nat) (egress : Bool) (seq : Nat) : List Byte :=
  let body := f.bytes.take (sizeOf' f - 4)
  let l := f.origLen.getD (body.length + 4)
  greFrame f.mirSes seq (mirrorHeader session egress (decide (body.length + 4 < l)) l f ++ body)

end Sys2Proof.Machine
end

