-- ==== Sys2Proof/Machine/Mirrors.lean ====
section
/-! DEFINITION. Mirror copies (R305 to R316): when a copy is made, its limiter, and where it goes. -/

namespace Sys2Proof.Machine

/-- The limiter may judge the copy: the frame has ended, or TRUNC bytes of it have arrived (R309). -/
def copyKnown (m : Mirror) (len : Option Nat) (have' : Nat) : Bool :=
  len.isSome || (m.trunc != 0 && decide (have' ≥ m.trunc))

/-- A new frame record. -/
def addFrame (d : Dev) (f : Frame) : Nat × Dev :=
  (d.nextId, { d with frames := d.frames ++ [{ f with id := d.nextId }], nextId := d.nextId + 1 })

/-- Begin a mirror copy of a frame on die `n` (R306, R307): `port` and `ve` are what its header reports, and `ns` is the
receive timestamp of an ingress copy or the transmit timestamp of an egress copy (R313). -/
def beginMirror (d : Dev) (f : Frame) (n s : Nat) (egress : Bool) (port ve : Nat) (e : VeEntry) (ns : List Nat) (ecn : Bool)
    (corr : Option Int) : Dev :=
  let m := mirrorOf (dieOf d n).tab s
  if !m.enable then d
  else (addFrame d
    { kind := .mirror s egress, orig := f.id, port := f.port, die := n, ve := f.ve, src := f.src, passed3 := true, tc := m.tc, tsReq := f.tsReq, tsId := f.tsId,
      rxAt := f.rxAt, rxNs := f.rxNs, charged := f.charged, acct := f.acct, stage := .step8, parsed := f.parsed,
      colour := f.colour, dest := if m.kind = 2 then .tap else .port, egPort := m.port, mirSes := m, mirVe := ve,
      mirTen := e.tenant, mirDom := e.domain, mirPort := port, mirTc := f.tc, mirColour := f.colour,
      mirNs := ns.getD e.domain 0 % two32, mirEcn := ecn, mirCorr := corr,
      mirLimit := false }).2

/-- Ask the allocator for the cells of a frame whose bytes have arrived (R346, R733). -/
def askCells (d : Dev) (i : Nat) : Dev :=
  let f := frameOf d i
  let want := cellCount f.bytes.length
  if want ≤ f.asked || f.dropped || f.held.isSome then d
  else onDie (onFrame d i fun f => { f with asked := want }) f.die fun x => { x with
    comb := { x.comb with requests := x.comb.requests ++ [(sliceOfPort f.port, i, want - f.asked)] } }

/-- A tap copy whose frame has ended well joins the tap queue of its die, or leaves for its tap die (R314, R379). -/
def joinTap (d : Dev) (i : Nat) : Dev :=
  let f := frameOf d i
  if f.mirSes.tapDie = f.die then
    onDie (onFrame d i fun c => admitted c .slow) f.die fun x => { x with tapQ := x.tapQ ++ [i] }
  else admitSlow d f f.mirSes.tapDie f.tc

/-- A copy whose length is known takes its tokens and joins its VOQ or its tap queue, or is dropped (R309, R310, R314). `len`
is the length of its frame, when that has ended well; before that, a copy for a tap waits for its frame's end. -/
def judgeMirror (d : Dev) (c : Frame) (bytes : List Byte) (len : Option Nat) : Dev :=
  let n := copyBytes c.mirSes len bytes.length
  let k := sentBytes c.mirSes n
  let body := bytes.take k
  let body := body ++ leBytes 4 (crc32 body)
  let cost := mirrorCost c.mirSes n
  let t := (dropTenant c).getD 0
  let d := onFrame d c.id fun c => { c with
    bytes := body
    len := some body.length
    mirSize := cost
    origLen := len
    mirLimit := true
    colour := 0
    good := len.isSome }
  match takeMirror d c.die t cost with
  | none => dropCopyFrame d (frameOf d c.id) drQuota
  | some d =>
    let s := match c.kind with
      | .mirror s _ => s
      | _ => 0
    let d := bump (bump d c.die (slotTenant t cntTenMirCopies) 1) c.die (slotMirror s 0) 1
    let d := askCells d c.id
    if c.dest = .port then admitUnicast d (frameOf d c.id)
    else
      let d := onFrame d c.id fun c => { c with stage := .slow }
      if len.isSome then joinTap d c.id else d

/-- The bytes that a copy of frame `f` is made from: those received, or for an egress copy those that its port transmits
(R307). -/
def mirrorSource (c f : Frame) : List Byte := match c.kind with
  | .mirror _ true => rewriteBytes f { ecn := c.mirEcn, corr := c.mirCorr } f.bytes
  | _ => f.bytes

/-- The copies of a frame that were judged before its end come to that end with it (R311, R313). One that was judged when some
of its TRUNC bytes were the frame's FCS is then cut to L − 4 (R308; DEDUCED, log 18). -/
def endMirrors (d : Dev) (i : Nat) : Dev :=
  let l := sizeOf' (frameOf d i)
  ((mirrorsOf d i).filter fun c => c.kind != .copyHost && c.mirLimit && !c.good).foldl (fun d c =>
    let body := c.bytes.take (min (sizeOf' c) l - 4)
    let d := onFrame d c.id fun c =>
      if sizeOf' c ≤ l then { c with good := true, origLen := some l }
      else { c with good := true, origLen := some l, bytes := withFcs body, len := some (body.length + 4) }
    if c.dest = .port then endStreams d c.id else joinTap d c.id) d

/-- Judge the copies of a frame whose length has become known (R309). -/
def judgeMirrors (d : Dev) (i : Nat) : Dev :=
  let f := frameOf d i
  ((mirrorsOf d i).filter fun c => c.kind != .copyHost && !c.mirLimit && copyKnown c.mirSes f.len f.bytes.length).foldl
    (fun d c => judgeMirror d c (mirrorSource c f) f.len) d

end Sys2Proof.Machine
end

