-- ==== Sys2Proof/Machine/Pipeline.lean ====
section
/-! DEFINITION. The header pipeline: steps 3 to 6 of R35, the slow path's start, and the turns of the pipeline. -/

namespace Sys2Proof.Machine

/- Charges fixed (R175, R733). -/

/-- Judge and charge the cells already taken, in chain order, up to the first refusal (R733). -/
def chargeTaken (i : Nat) (ch : Nat × Nat × Nat) : Nat → Dev → Dev
  | 0, d => d
  | k + 1, d =>
    let n := (frameOf d i).die
    if cellAdmitted d n ch then
      chargeTaken i ch k (onFrame (chargeComb d n ch.1 ch.2.1 1) i fun f => { f with paid := f.paid + 1 })
    else onFrame d i fun f => { f with held := some (drQuota, 5) }

/-- The charged VE, tenant and cap of a frame are fixed (R175, R178). -/
def fixCharge (d : Dev) (i v : Nat) (e : VeEntry) : Dev :=
  let ch := (v, e.tenant, e.cellCap)
  let d := onFrame d i fun f => { f with charged := some ch, acct := e.acct }
  let d := ((mirrorsOf d i).filter fun c => c.kind == .copyHost).foldl (fun d c => onFrame d c.id fun c => { c with acct := e.acct }) d
  chargeTaken i ch (frameOf d i).chain.length d

/- Step 3 (R162 to R166). -/

/-- The port entry of an Ethernet port: the lowest valid VE bound to it (R163). -/
def portEntry (x : Die) (p : Nat) : Option Nat :=
  minOff ((x.tab.ves.filter fun e => e.2.valid && e.2.port == p && !parBad x 0 e.1).map (·.1))

/-- The next EV_VE_SPOOF of a port (R164). -/
def raiseSpoof (d : Dev) (p : Nat) : Dev :=
  let q := portOf d p
  raise (onPort d p fun q => { q with spoofAt := some d.now, spoofN := 0 }) (dieOfPort p) evVeSpoof
    (leBytes 2 p ++ leBytes 2 q.spoofVe ++ leBytes 4 q.spoofN)

/-- Drop a frame as DR_VE_SPOOF and report it, at once or 1 s after the last event (R164). The VE reported for a frame from
an Ethernet port, which carries no VE tag, is 0 (DESIGN CHOICE, log 58). -/
def spoofDrop (d : Dev) (i : Nat) : Dev :=
  let f := frameOf d i
  let d := dropFrame d i drVeSpoof
  let d := onPort d f.port fun q => { q with
    spoofVe := if q.spoofN = 0 then f.ve else q.spoofVe
    spoofN := q.spoofN + 1 }
  if mayRaise d (portOf d f.port).spoofAt sec then raiseSpoof d f.port else d

/-- The anti-spoof check: the source VE and its entry when it passes (R162, R163). -/
def antiSpoof (d : Dev) (f : Frame) : Option (Nat × VeEntry) :=
  let x := dieOf d f.die
  if isSpindle d f.port then
    let e := veRead x f.ve
    if e.valid && e.port == f.port then some (f.ve, e) else none
  else (portEntry x f.port).map fun v => (v, veOf x.tab v)

/-- A frame passes step 3: its source entry is read, its charge is fixed when its source VE pays, and the cells of its
bytes so far are requested (R166, R175, R733). -/
def passStep3 (d : Dev) (i v : Nat) (e : VeEntry) : Dev :=
  let spindle := isSpindle d (frameOf d i).port
  let d := onFrame d i fun f => { f with ve := v, src := e, passed3 := true, acct := e.acct, stage := .step8 }
  askCells (if spindle then fixCharge d i v e else d) i

/- The slow path (R225 to R232, R314). -/

/-- Punt home of a die (R231). -/
def puntHome (d : Dev) (n : Nat) : Nat := kget (dieOf d n).tab.puntHome n n

/-- A frame joins those that wait for a punt ring, in the order in which the last bytes arrived (R230). -/
def puntInsert (d : Dev) (i : Nat) : List Nat → List Nat
  | [] => [i]
  | j :: r => if (frameOf d i).endAt < (frameOf d j).endAt then i :: j :: r else j :: puntInsert d i r

/-- A frame bound for the slow path whose last byte has arrived is handed to it: it goes to the Keeper, to its punt ring's
queue or to its punt home (R226, R231, R232, R350). -/
def joinSlow (d : Dev) (i : Nat) : Dev :=
  let d := onFrame d i fun f => admitted f .slow
  let f := frameOf d i
  let d := decidePause d f.port
  if f.toKeeper then
    if (dieOf d f.die).keeperQ.length ≥ 1024 then dropFrame d i drPuntFull
    else onDie d f.die fun x => { x with keeperQ := x.keeperQ ++ [i] }
  else
    let h := puntHome d f.die
    if h = f.die then onDie d h fun x => { x with puntQ := puntInsert d i x.puntQ }
    else admitSlow d f h 7

/-- Send a frame to the slow path: `keeper`, or a punt ring with its REASON; it first takes a token of its source VE's
tenant, unless it has paid one (R225, R233). A frame that step 5 has not resolved is charged to its source VE (R175,
R226). -/
def goSlow (d : Dev) (i : Nat) (keeper : Bool) (ring reason : Nat) (free : Bool) : Dev :=
  let f := frameOf d i
  let paid := if free then some d else takePunt d f.die f.src.tenant
  match paid with
  | none => dropFrame d i drQuota
  | some d =>
    let d := if f.charged.isSome then d else fixCharge d i f.ve f.src
    if let some r := (frameOf d i).held then dropFrame d i r.1
    else
      let d := onFrame d i fun f => { f with
        toKeeper := keeper
        punt := if keeper then none else some (ring, reason)
        stage := .slow }
      if f.len.isSome then joinSlow d i else d

/-- The copy that COPY_HOST makes of a frame (R220, R225): it waits for the frame's last byte. -/
def copyToHost (d : Dev) (i ring : Nat) : Dev :=
  let f := frameOf d i
  match takePunt d f.die f.src.tenant with
  | none => countDrop d f.die (some f.port) (dropTenant f) drQuota (sizeOf' f)
  | some d =>
    let x := addFrame d { f with
      kind := .copyHost
      orig := f.id
      chain := []
      asked := 0
      paid := 0
      held := none
      stage := .slow
      owner := some .slowPath
      fedE := true
      mirIn := none
      ruleCnt := none
      punt := some (ring, 7) }
    if f.len.isSome then joinSlow x.2 x.1 else x.2

/- Step 6 and what follows (R297 to R307). -/

/-- After step 6: the ingress mirror copy is begun and step 8 decides the frame (R306, R307, R358). -/
def afterStep6 (d : Dev) (i : Nat) : Dev :=
  let f := frameOf d i
  if f.colour = 3 then dropFrame (onFrame d i fun f => { f with colour := 2 }) i drPolicerRed
  else
    let d := onFrame d i fun f => { f with stage := .step8 }
    let d := match f.mirIn with
      | some s => beginMirror d f f.die s false f.port f.ve f.src f.rxNs false none
      | none => d
    countReceived (admitFrame (judgeMirrors d i) i) i

/-- Step 6 for a frame whose length is known or that is not policed; colour 3 stands for red that RED_DROP drops
(R299 to R301). -/
def policeFrame (d : Dev) (i : Nat) : Dev :=
  let f := frameOf d i
  match f.policer, f.len with
  | none, _ => afterStep6 d i
  | some k, some l =>
    let r := police d f.die k l
    let red := r.1 == 2 && (policerOf (dieOf d f.die) k).redDrop
    afterStep6 (onFrame r.2 i fun f => { f with colour := if red then 3 else r.1 }) i
  | some _, none => onFrame d i fun f => { f with stage := .police }

/- Step 5 (R240 to R246, R252, R271 to R275). -/

/-- Step 5 has resolved a frame to a destination VE (R167, R168, R175). -/
def resolveVe (d : Dev) (i v : Nat) : Dev :=
  let f := frameOf d i
  let e := veRead (dieOf d f.die) v
  if !e.valid then dropFrame d i drVeInvalid
  else
    let d := onFrame d i fun f => { f with dest := .ve v, eg := e, egPort := e.port }
    policeFrame (if isSpindle d f.port || (f.charged.isSome && !f.byKeeper) then d else fixCharge d i v e) i

/-- Step 5 has resolved a frame to a group: its source VE pays (R175). -/
def resolveGroup (d : Dev) (i g : Nat) : Dev :=
  let d := onFrame d i fun f => { f with dest := .group g }
  let f := frameOf d i
  let d := if f.charged.isSome then d else fixCharge d i f.ve f.src
  match groupOfFrame d f.die f with
  | some r => if r.valid && !(groupDies r).isEmpty then policeFrame d i else dropFrame d i drEgressDeny
  | none => d

/-- The source lookup and what follows from it (R252). -/
def sourceLookup (d : Dev) (f : Frame) : Dev :=
  let x := dieOf d f.die
  let mac := be f.bytes 6 6
  let key := macKey f.src.bd mac
  let learnable := f.src.learn && !isGroup mac && mac != 0
  let push := fun move => if x.learnQ.length ≥ 4096 then bumpDie d f.die cntLearnDrop 1
    else onDie d f.die fun x => { x with learnQ := x.learnQ ++ [⟨key, f.ve, f.src.tenant, move, d.now⟩] }
  match macLookup x key with
  | none => if learnable then push false else d
  | some (k, e) =>
    let own := !e.group && e.dest == f.ve
    if own then (if e.static then d else macWrite d f.die k { e with act := true })
    else if !learnable then d
    else if e.static then bumpDie d f.die cntMacStaticConflict 1
    else push true

/-- TTL or Hop Limit of a frame's outermost IP header (R245). -/
def ttlOf (f : Frame) : Nat := byteAt f.bytes (f.parsed.l3 + if f.parsed.ktype = 1 then 8 else 7)

/-- A route has been found, or none (R244 to R246). -/
def routed (d : Dev) (i : Nat) (r : Option NextHop) : Dev :=
  let f := frameOf d i
  match r with
  | none => dropFrame d i drLpmMiss
  | some h =>
    if h.drop then dropFrame d i drLpmMiss
    else if ttlOf f ≤ 1 then dropFrame d i drTtlExpired
    else
      let x := dieOf d f.die
      let mac := (bdRead x (veRead x h.ve).bd).mac
      resolveVe (onFrame d i fun f => { f with route := some (h.mac, mac) }) i h.ve

/-- One pass of an LPM lookup (R274). A pass after the first is counted (R275). -/
def lpmTurn (d : Dev) (i : Nat) : Dev :=
  let f := frameOf d i
  let r := lpmPass (dieOf d f.die) f.lpmLeft
  let d := onFrame d i fun f => { f with passes := f.passes + 1, lpmLeft := r.2 }
  if r.1.isNone && !r.2.isEmpty then onFrame d i fun f => { f with stage := .lookup }
  else routed (onFrame d i fun f => { f with stage := .step8 }) i r.1

/-- Step 5 of a frame (R240, R242, R244). -/
def step5 (d : Dev) (i : Nat) : Dev :=
  let f := frameOf d i
  let x := dieOf d f.die
  let b := bdRead x f.src.bd
  let dmac := be f.bytes 0 6
  let d := sourceLookup d f
  let pass := fun d => onFrame d i fun f => { f with passes := f.passes + 1 }
  if b.routeEn && dmac == b.mac then
    if f.parsed.ktype = 0 then dropFrame (pass d) i drLpmMiss
    else lpmTurn (onFrame d i fun f => { f with
      lpmLeft := lpmProbes x (if f.parsed.ktype = 1 then 4 else 6) f.src.vrf f.parsed.dst4 }) i
  else
    let d := pass d
    let flood := fun d => if b.floodEn then resolveGroup d i b.group else dropFrame d i drMacMiss
    if dmac = 0xFFFFFFFFFFFF then flood d
    else match macLookup x (macKey f.src.bd dmac) with
      | none => flood d
      | some (_, e) =>
        if e.group then resolveGroup d i e.dest
        else if e.dest = f.ve then dropFrame d i drSameVe
        else resolveVe d i e.dest

/- Step 4 (R207 to R221). -/

/-- The replacements of a winning rule apply to a frame (R219, R221). -/
def applyRule (d : Dev) (i idx action : Nat) : Dev :=
  let d := onFrame d i fun f => { f with
    rule := some idx
    tc := (actTc action).getD f.tc
    policer := (actPol action).orElse fun _ => f.policer
    mirIn := (actMir action).orElse fun _ => f.mirIn }
  match actCnt action with
  | none => d
  | some c =>
    let f := frameOf d i
    let d := bump d f.die c 1
    if f.len.isSome then bump d f.die (c + 1) (sizeOf' f) else onFrame d i fun f => { f with ruleCnt := some c }

/-- The port's MISS action as step 4 read it (R211, R212, R236). -/
def missAction (f : Frame) : Nat := f.acts.getD 6 0

/-- Classification of a frame in its ingress slice and its disposition (R218 to R220). -/
def classifyFrame (d : Dev) (i : Nat) : Dev :=
  let f := frameOf d i
  match classify (dieOf d f.die) (sliceOfPort f.port) f.parsed.key with
  | none =>
    let a := missAction f
    match a % 8 with
    | 1 => dropFrame d i drClsDeny
    | 2 => goSlow d i false (a / 16) 5 false
    | 3 => goSlow d i true 0 0 false
    | _ => step5 d i
  | some (idx, r) =>
    let d := applyRule d i idx r.action
    match actDisp r.action with
    | 1 => dropFrame d i drClsDeny
    | 2 => resolveVe d i (actVe r.action)
    | 3 => goSlow d i false (actRing r.action) 6 false
    | 4 => goSlow d i true 0 0 false
    | 5 => step5 (copyToHost d i (actRing r.action)) i
    | _ => step5 d i

/-- The failure kinds of R211 that are present, in order: whether present, the drop reason and the punt REASON. -/
def failureKinds (r : ParseResult) : List (Bool × Nat × Nat) :=
  [(r.conflict, drLenConflict, 0), (r.csum, drIpv4Csum, 2), (r.depth, drParseDepth, 1), (r.frag, 0, 3), (r.opt, 0, 4),
   (r.trailer, drLenConflict, 0)]

/-- The first failure kind whose action is not FORWARD: its action byte, drop reason and punt REASON (R212). -/
def firstFailure (acts : List Nat) (r : ParseResult) : Option (Nat × Nat × Nat) :=
  (((failureKinds r).zip acts).find? fun k => k.1.1 && k.2 % 8 != 0).map fun k => (k.2, k.1.2)

/-- Count the parse failures of a frame against its ingress port (R214). -/
def countParse (d : Dev) (p : Nat) (r : ParseResult) : Dev :=
  let d := if r.depth then bumpPort d p cntParseDepth 1 else d
  let d := if r.conflict then bumpPort d p cntLenConflict 1 else d
  if r.trailer then bumpPort d p cntLenTrailer 1 else d

/-- Step 4 of a frame (R199 to R212, R215). -/
def step4 (d : Dev) (i : Nat) : Dev :=
  let f := frameOf d i
  let set := (portOf d f.port).set
  let tcOf := fun tci => if isSpindle d f.port then f.tc else pcpClass set tci
  let x := parse (dieOf d f.die).tab f.bytes f.len f.port f.ve f.src tcOf
  let r := x.1
  let d := onFrame d i fun f => { f with
    parsed := r.parsed
    acts := set.actions
    tc := x.2
    policer := if f.src.polEn then some f.src.policer else none
    mirIn := f.src.mirIn }
  let d := countParse d f.port r
  let dropNow := fun d reason =>
    -- its tail checks are not judged any more
    dropFrame (onFrame d i fun f => { f with parsed := { f.parsed with tailBad := [] } }) i reason
  if r.limit then dropNow d drFragmentLimit
  else match firstFailure set.actions r with
    | none => classifyFrame d i
    | some (a, reason, code) =>
      if a % 8 = 1 then dropNow d reason
      else goSlow d i (a % 8 == 3) (a / 16) code false

/- The turns of the pipeline (R24 to R27, R275). -/

/-- The header of a frame has arrived: its first 256 bytes and what decides its tail (R196), or all of it. -/
def headerReady (f : Frame) : Bool := f.len.isSome || decide (f.bytes.length ≥ 260)

/-- A frame waits for another pass of the lookup stage of its slice (R275). -/
def recircOf (d : Dev) (n s p : Nat) : Option Nat :=
  (d.frames.find? fun f => f.die == n && f.stage == .lookup && f.port == p && sliceOfPort p == s).map (·.id)

/-- The oldest entry of a port in the ingress queue of its slice. -/
def oldestOf (d : Dev) (n s p : Nat) : Option Frame :=
  ((sliceOf d n s).queue.find? fun i => (frameOf d i).port == p).map (frameOf d)

/-- The ports of a slice in rotating order after the one served last (R27). -/
def turnOrder (n s turn : Nat) : List Nat :=
  ((List.range 24).map fun k => (turn + 1 + k) % 24).map fun l => n * 128 + s * 24 + l

/-- The header pipeline takes a frame through steps 3 to 8 as far as its bytes allow (R35). -/
def takeHeader (d : Dev) (n s : Nat) (f : Frame) : Dev :=
  let d := onSlice d n s fun x => { x with
    queue := x.queue.filter (· != f.id)
    turn := localOf f.port % 24
    idleAt := d.now }
  match antiSpoof d f with
  | none => countReceived (spoofDrop d f.id) f.id
  | some (v, e) => countReceived (step4 (passStep3 d f.id v e) f.id) f.id

/-- The frame with the next turn of a slice: that of the next port in rotation whose oldest frame is ready, or whose frame
waits for another pass of its lookup, which takes the port's turn (R27, R275). -/
def nextTurn (d : Dev) (n s : Nat) : Option Frame :=
  firstSome (fun p => match recircOf d n s p with
    | some i => some (frameOf d i)
    | none => (oldestOf d n s p).filter headerReady) (turnOrder n s (sliceOf d n s).turn)

/-- A turn of the header pipeline of a slice that is not a recirculation's (R27, R281). -/
def execHeaderPipelineTurn (die : Nat) (turn : PipeTurn) (s : State) : Host.Outcome State Fault Refusal :=
  onDev s fun d =>
    if !alive d die || turn.slice ≥ 4 then d
    else match nextTurn d die turn.slice with
      | none => d
      | some f => if f.stage == .lookup then d else takeHeader (readBad d die turn.bad) die turn.slice f

/-- A turn of the header pipeline of a slice that is a further pass of a lookup (R275, R281). -/
def execLpmRecirculation (die : Nat) (turn : PipeTurn) (s : State) : Host.Outcome State Fault Refusal :=
  onDev s fun d =>
    if !alive d die || turn.slice ≥ 4 then d
    else match nextTurn d die turn.slice with
      | none => d
      | some f =>
        if f.stage != .lookup then d
        else
        let i := f.id
        let p := f.port
        let d := readBad d die turn.bad
        let d := bump d die (slotSlice turn.slice cntLpmRecirc) 1
        let d := onSlice d die turn.slice fun x => { x with turn := localOf p % 24, idleAt := d.now }
        countReceived (lpmTurn d i) i

/-- 1 s after an EV_VE_SPOOF with further drops, the next one is raised (R164). -/
def execVeSpoofEventDue (port : Nat) (s : State) : Host.Outcome State Fault Refusal :=
  onDev s fun d =>
    let q := portOf d port
    if !alive d (dieOfPort port) || q.spoofN = 0 || !mayRaise d q.spoofAt sec then d else raiseSpoof d port

end Sys2Proof.Machine
end

