-- ==== Sys2Proof/Machine/Tenants.lean ====
section
/-! DEFINITION. The tenant and endpoint commands (R192 to R195) and the deferred OVER_QUOTA event. -/

namespace Sys2Proof.Machine

/-- The entry that TEN_VE_SET stores (R192, R193). -/
def veOfParams (p : BitVec 384) : VeEntry :=
  let flags := pf p 15 1
  let pol := pf p 10 2
  let mir := pf p 12 2
  if !bitOf flags 0 then {}
  else
    { valid := true, tenant := bitsOf (pf p 2 2) 0 10, port := pf p 4 2, bd := pf p 6 2, vrf := pf p 8 2,
      polEn := bitOf pol 15, policer := bitsOf pol 0 14,
      mirIn := if bitOf mir 4 then some (bitsOf mir 0 4) else none,
      mirEg := if bitOf mir 12 then some (bitsOf mir 8 4) else none,
      mirInS := bitsOf mir 0 4, mirEgS := bitsOf mir 8 4, domain := bitsOf (pf p 14 1) 0 4, learn := bitOf flags 1,
      acct := bitsOf (pf p 16 2) 0 10, cellCap := pf p 20 4 }

/-- Bytes 0 to 23 of the TEN_VE_SET layout of a stored entry (R192). -/
def veBytes (v : Nat) (e : VeEntry) : List Byte :=
  leBytes 2 v ++ leBytes 2 e.tenant ++ leBytes 2 e.port ++ leBytes 2 e.bd ++ leBytes 2 e.vrf
    ++ leBytes 2 (e.policer + atBit 15 e.polEn)
    ++ leBytes 2 (e.mirInS + atBit 4 e.mirIn.isSome + e.mirEgS * 256 + atBit 12 e.mirEg.isSome)
    ++ leBytes 1 e.domain ++ leBytes 1 (atBit 0 e.valid + atBit 1 e.learn) ++ leBytes 2 e.acct ++ leBytes 2 0
    ++ leBytes 4 e.cellCap

/-- The VE holds more cells on some die than its new cap (R187). -/
def capBelowUse (d : Dev) (v cap : Nat) : Bool :=
  cap != noLimit && (aliveDies d).any fun n => decide (kget (dieOf d n).veUse v 0 > cap)

/-- A port sends no further VE_XOFF for a VE that is no longer bound to it (R147). -/
def unboundXoff (d : Dev) (v : Nat) : Dev :=
  (configured d).foldl (fun d p =>
    let e := veOf (dieOf d (dieOfPort p)).tab v
    if e.valid && e.port == p then d else onPort d p fun q => { q with txXoff := kdel q.txXoff v, owed := q.owed.filter fun o => match o with
      | .veXoff w _ => w != v
      | .pause _ => true }) d

/-- TEN_VE_SET (R192, R193): with VALID 0 only reserved bits are judged. -/
def specTenVeSet (d : Dev) (p : BitVec 384) : CmdSpec :=
  let v := pf p 0 2
  let valid := bitOf (pf p 15 1) 0
  let cap := pf p 20 4
  let dom := pf p 14 1
  let port := ckPort d 4 (pf p 4 2)
  { opcode := 0x0301, kind := .w, keepers := aliveDies d,
    checks := [resv p 0 2 0xF000, resv p 2 2 0xFC00,
      badIf 2 (valid && !(tenantOf d.master (bitsOf (pf p 2 2) 0 10)).valid),
      ⟨4, valid && port.unsup, valid && (port.bad || isPeerPort d (pf p 4 2))⟩,
      resv p 6 2 0xC000, resv p 8 2 0xFC00, resv p 10 2 0x4000, resv p 12 2 0xE0E0, resv p 14 1 0xF0,
      ⟨14, valid && (ckDomain d 14 (bitsOf dom 0 4)).unsup, false⟩, resv p 15 1 0xFC, resv p 16 2 0xFC00, resB p 18 2,
      badIf 20 (valid && decide (cap > 196608) && cap != noLimit)],
    run := fun d =>
      (unboundXoff (onDies (shadowed (fun d => onTables d fun t => { t with ves := kput t.ves v (veOfParams p) }) d)
          (aliveDies d) fun x => parGood x 0 v) v,
        { status := if valid && capBelowUse d v cap then stOverQuota else stOk }) }

def execTenVeSet (c : Cmd) (s : State) : Host.Outcome State Fault Refusal :=
  onDev s fun d => runCmd (specTenVeSet d c.params) c d

/-- TEN_VE_GET reads the copy of one die (R192, R195). -/
def specTenVeGet (d : Dev) (p : BitVec 384) : CmdSpec :=
  let v := pf p 0 2
  let n := pf p 2 1
  { opcode := 0x0302, kind := .r, any := true, wide := true, keepers := [n],
    checks := [resv p 0 2 0xF000, ckDie d 2 n, resB p 3 1],
    run := fun d =>
      let x := dieOf d n
      (d, okResult (veBytes v (veOf x.tab v) ++ leBytes 4 (kget x.veUse v 0))) }

def execTenVeGet (c : Cmd) (s : State) : Host.Outcome State Fault Refusal :=
  onDev s fun d => runCmd (specTenVeGet d c.params) c d

/-- The record that TEN_SET stores; a record made invalid holds 0 in every quota (R194). -/
def tenantOfParams (p : BitVec 384) : Tenant :=
  if !bitOf (pf p 2 2) 0 then {}
  else
    { valid := true, comb := pf p 4 4, store := pf p 8 4, mac := pf p 12 4, puntRate := pf p 16 4,
      puntBurst := pf p 20 2, mirRate := pf p 24 4, energy := pf p 28 4 }

/-- Bytes 2 to 31 of the TEN_SET layout of a stored record. -/
def tenantBytes (q : Tenant) : List Byte :=
  leBytes 2 (atBit 0 q.valid) ++ leBytes 4 q.comb ++ leBytes 4 q.store ++ leBytes 4 q.mac ++ leBytes 4 q.puntRate
    ++ leBytes 2 q.puntBurst ++ leBytes 2 0 ++ leBytes 4 q.mirRate ++ leBytes 4 q.energy

/-- A held quota of the record lies below the tenant's use on some die (R187). -/
def quotaBelowUse (d : Dev) (t : Nat) (q : Tenant) : Bool :=
  let above := fun quota use : Nat => quota != noLimit && decide (use > quota)
  (aliveDies d).any fun n =>
    let x := dieOf d n
    above q.comb (kget x.combUse t 0) || above q.store (kget x.storeUse t 0) || above q.mac (macUse x t)

/-- The value is above its range and is not the mark of no limit. -/
def aboveRange (v top : Nat) : Bool := decide (v > top) && v != noLimit

/-- TEN_SET (R192, R194). -/
def specTenSet (d : Dev) (p : BitVec 384) : CmdSpec :=
  let t := pf p 0 2
  let valid := bitOf (pf p 2 2) 0
  { opcode := 0x0303, kind := .w, keepers := aliveDies d,
    checks := [resv p 0 2 0xFC00, resv p 2 2 0xFFFE,
      badIf 2 (!valid && d.master.ves.any fun e => e.2.valid && e.2.tenant == t),
      badIf 4 (aboveRange (pf p 4 4) 196608), badIf 8 (aboveRange (pf p 8 4) 67108864),
      badIf 12 (aboveRange (pf p 12 4) 262144), badIf 16 (pf p 16 4 > 10000000), badIf 20 (pf p 20 2 == 0),
      resB p 22 2, badIf 24 (pf p 24 4 > 1600000), badIf 28 (aboveRange (pf p 28 4) 1700000)],
    run := fun d =>
      let q := tenantOfParams p
      let below := quotaBelowUse d t q
      let d := (aliveDies d).foldl (fun d n => putTenant d n t q)
        (onMaster d fun m => { m with tenants := kput m.tenants t q })
      (checkOverDies d t, { status := if below then stOverQuota else stOk }) }

def execTenSet (c : Cmd) (s : State) : Host.Outcome State Fault Refusal :=
  onDev s fun d => runCmd (specTenSet d c.params) c d

/-- TEN_GET reads the record as stored on d0 (R192). -/
def specTenGet (p : BitVec 384) : CmdSpec :=
  let t := pf p 0 2
  { opcode := 0x0304, kind := .r, any := true, wide := true, keepers := [0], checks := [resv p 0 2 0xFC00],
    run := fun d => (d, okResult (tenantBytes (tenantOf d.master t))) }

def execTenGet (c : Cmd) (s : State) : Host.Outcome State Fault Refusal :=
  onDev s fun d => runCmd (specTenGet c.params) c d

/-- TEN_STATUS (R192, R195): use, OVER_QUOTA bits, quota drops and learn refusals of a tenant on a die. -/
def specTenStatus (d : Dev) (p : BitVec 384) : CmdSpec :=
  let t := pf p 0 2
  let n := pf p 2 1
  { opcode := 0x0305, kind := .r, any := true, wide := true, keepers := [n],
    checks := [resv p 0 2 0xFC00, ckDie d 2 n, resB p 3 1],
    run := fun d =>
      let x := dieOf d n
      (d, okResult (leBytes 4 (kget x.combUse t 0) ++ leBytes 4 (kget x.storeUse t 0) ++ leBytes 4 (macUse x t)
        ++ leBytes 1 (overBits d n t) ++ leBytes 3 0 ++ leBytes 8 (counterOf d n (slotTenant t drQuota))
        ++ leBytes 8 (counterOf d n (slotTenant t cntLearnQuota)))) }

def execTenStatus (c : Cmd) (s : State) : Host.Outcome State Fault Refusal :=
  onDev s fun d => runCmd (specTenStatus d c.params) c d

/-- 10 ms after the last event of a tenant on a die, a deferred OVER_QUOTA change is reported (R188). -/
def execOverQuotaEventDue (die tenant : Nat) (s : State) : Host.Outcome State Fault Refusal :=
  onDev s fun d =>
    let o := kget (dieOf d die).overQ tenant {}
    if !alive d die || !o.wait || !mayRaise d o.last (10 * ms) then d
    else
      let b := overBits d die tenant
      let o := { o with bits := b, wait := false, last := some d.now }
      raiseOver (onDie d die fun x => { x with overQ := kput x.overQ tenant o }) die tenant b

end Sys2Proof.Machine
end

