-- ==== Sys2Proof/Machine/Egress.lean ====
section
/-! DEFINITION. The egress side that every sender shares: wakes, and handing a copy to a scheduler (R439, R455, R484,
R485). -/

namespace Sys2Proof.Machine

/-- Cells of the copies that wait on a port in a class (R445). -/
def queuedCells (d : Dev) (p c : Nat) : Nat :=
  ((waitingIn d p c).map fun i => cellCount (sizeOf' (frameOf d (copyOf d i).fid))).sum

/-- A frame for a port wakes its transmitter and its slice (R484, R485). -/
def wakePort (d : Dev) (p : Nat) : Dev := wakeSlice (wakeTx d p) (dieOfPort p) (sliceOfPort p)

/-- The group of a copy on its port: that of its charged tenant (R455). -/
def groupFor (d : Dev) (p : Nat) (f : Frame) : Nat := match dropTenant f with
  | some t => kget (portOf d p).set.groupMap t 0
  | none => 0

/-- Why a copy that reaches the scheduler is discarded there, if it is (R85, R388, R439, R654). -/
def schedRefuses (d : Dev) (c : Copy) : Option Nat :=
  let q := portOf d c.port
  if !isActive d then some drRoleStandby
  else if q.link == .quarantine then some drQuarantine
  else if q.link != .up then some drPortDown
  else if ignoring q c.tc || (c.ve.any fun v => veIgnoring q v c.tc) then some drPauseWatchdog
  else none

/-- Hand a copy to its port's scheduler (R380, R455). -/
def handOver (d : Dev) (c : Copy) : Dev :=
  match schedRefuses d c with
  | some r => dropCopy d c r
  | none =>
    let g := groupFor d c.port (frameOf d c.fid)
    let d := onCopy d c.id fun c => { c with group := g, arrived := true }
    let d := onPort d c.port fun q =>
      let x := kget q.set.groups g {}
      { q with set := { q.set with groups := kput q.set.groups g { x with queues := lmod x.queues c.tc (· ++ [c.id]) } } }
    stallCheck (wakePort d c.port) c.port

/-- A new copy record. -/
def addCopy (d : Dev) (c : Copy) : Nat × Dev :=
  (d.nextId, { d with copies := d.copies ++ [{ c with id := d.nextId }], nextId := d.nextId + 1 })

end Sys2Proof.Machine
end

