-- ==== Sys2Proof/Machine/Fabric.lean ====
section
/-! DEFINITION. Credits, sending from VOQs and the arrival of flits (R380 to R388, R390 to R401, R407). -/

namespace Sys2Proof.Machine

/- Credits (R381 to R387). -/

/-- BALANCE that all VOQs hold towards a port (R382). -/
def balanceOf (d : Dev) (p : Nat) : Nat :=
  ((d.voqs.filter fun e => !e.1.mc && e.1.target == p).map fun e => e.2.balance).sum

/-- Committed cells of a port (R382). -/
def committed (d : Dev) (p : Nat) : Nat := balanceOf d p + (portOf d p).sent

/-- Committed cells of the multicast VOQs of die `n` towards die `e` (R385). -/
def committedMc (d : Dev) (n e : Nat) : Nat :=
  ((d.voqs.filter fun x => x.1.mc && x.1.target == e && x.1.die == n).map fun x => x.2.balance).sum
    + (((dieOf d e).mcIn.filter fun m => (frameOf d m.fid).die == n).map (·.ncells)).sum

/-- The VOQ holds a request, and the engine of its egress die can grant it (R344, R382, R383, R385). -/
def grantable (d : Dev) (q : VoqKey) : Bool :=
  let e := voqDie q
  let b := combOf d e
  alive d q.die && decide ((voqOf d q).asked ≥ 16) && (q.die == e || (decide (poolLeft b 3 ≥ 16) && decide (freeCells b ≥ 16)))
    && if q.mc then decide (committedMc d q.die e + 16 ≤ 512) else decide (committed d q.target + 16 ≤ 16 * windowOf d q.target)

/-- Grant one credit to a VOQ that has requested it: 16 cells of BALANCE, and 16 cells of the egress pool when it lies on another die (R38,
R344, R381). -/
def grant (d : Dev) (q : VoqKey) : Dev :=
  let e := voqDie q
  let x := if q.die = e then ([], d) else drawCells e 3 16 d
  let d := onVoq x.2 q fun v => { v with balance := v.balance + 16, asked := v.asked - 16, room := v.room ++ x.1 }
  bumpDie (askCredits d q) e cntCreditGrant 1

/-- Every VOQ towards a port, or towards a die, has made the requests that its demand asks for (R383). -/
def askAll (d : Dev) (mc : Bool) (target : Nat) : Dev :=
  ((d.voqs.filter fun e => e.1.mc == mc && e.1.target == target).map (·.1)).foldl askCredits d

/-- The requests that an engine serves, in its order: TC7 by die, then the pairs (class, die), each after the one
served last (R384). -/
def creditOrder (mc : Bool) (target last7 : Nat) (last : Nat × Nat) : List VoqKey :=
  ((rotateAfter (List.range 8) (· == last7)).map fun n => ⟨n, mc, target, 7⟩)
    ++ (rotateAfter ((List.range 7).flatMap fun c => (List.range 8).map fun n => (c, n)) (· == last)).map
      fun k => ⟨k.2, mc, target, k.1⟩

/-- The credit engine of a die serves one request for a port, or for its replication engine when `port` is 1,024 plus
the die (R384, R385). -/
def execCreditGrant (port : Nat) (s : State) : Host.Outcome State Fault Refusal :=
  onDev s fun d =>
    if port ≥ 1024 then
      let e := port - 1024
      let d := askAll d true e
      if !alive d e then d
      else match (creditOrder true e (dieOf d e).credit7 (dieOf d e).creditAt).find? (grantable d) with
        | none => d
        | some q => onDie (grant d q) e fun x =>
          if q.tc = 7 then { x with credit7 := q.die } else { x with creditAt := (q.tc, q.die) }
    else
      let d := askAll d false port
      let p := portOf d port
      if !portUp d port || p.creditStop then d
      else match (creditOrder false port p.credit7 p.creditAt).find? (grantable d) with
        | none => d
        | some q => onPort (grant d q) port fun x =>
          if q.tc = 7 then { x with credit7 := q.die } else { x with creditAt := (q.tc, q.die) }

/-- A VOQ that has held no frame for 2 µs returns its BALANCE (R387). -/
def execVoqIdleReturn (q : VoqKey) (s : State) : Host.Outcome State Fault Refusal :=
  onDev s fun d =>
    let v := voqOf d q
    if voqEmpty v && expired d v.emptyAt (2 * us) then returnBalance d q else d

/- Frames leave a VOQ (R380, R386, R397, R400, R401). -/

/-- The head frame leaves HEAD; the time is kept when the VOQ is then empty. -/
def popHead (d : Dev) (q : VoqKey) : Dev :=
  askCredits (settleVoq (onVoq d q fun v =>
    let v := { v with head := v.head.drop 1 }
    if voqEmpty v then { v with emptyAt := d.now } else v) q) q

/-- The egress port lets a frame cut through to it (R400). -/
def portCuts (d : Dev) (f : Frame) (p : Nat) : Bool :=
  let q := portOf d p
  q.set.ctEn && portUp d p && q.power == .l0 && q.tx.isNone && q.next.isNone && schedEmpty q
    && decide (payloadGbps d p ≤ payloadGbps d f.port)

/-- The valid members of a frame's group on a die and their ports. -/
def memberPorts (d : Dev) (f : Frame) (e : Nat) : List Nat := match groupOfFrame d e f with
  | some g => (g.members.filter fun m => m.2 == e).map fun m => (veOf (dieOf d e).tab m.1).port
  | none => []

/-- Ports to which a frame of a VOQ may cut through now (R400, R401). -/
def cutPorts (d : Dev) (q : VoqKey) (f : Frame) : List Nat :=
  ((if q.mc then memberPorts d f q.target else [q.target]).filter (portCuts d f)).eraseDups

/-- What has to be written before a frame cuts through: its first cell, or the whole of a frame shorter than 256 bytes
(R401). -/
def cutStarted (f : Frame) : Bool :=
  if f.len.any (· < 256) then f.chain.length == cellCount (sizeOf' f)
  else !f.chain.isEmpty && decide (f.bytes.length ≥ 256)

/-- The head frame of a VOQ may leave by cut-through to some port (R400, R401). -/
def cutOk (d : Dev) (q : VoqKey) (t : VItem) (f : Frame) : Bool :=
  let v := voqOf d q
  !t.slow && f.kind != .copyHost && decide ((voqItems v).length = 1) && decide (v.balance ≥ 38) && cutStarted f
    && !(cutPorts d q f).isEmpty

/-- Destination VE of a frame (R110). -/
def destVe (f : Frame) : Option Nat := match f.dest with
  | .ve v => some v
  | _ => none

/-- A unicast frame or mirror copy leaves its VOQ with `n` cells of credit: to its port's scheduler, or as flits to
another die whose cells have been set aside (R37 to R39, R380); by cut-through if `cut`, and then, if `early`, before its
end. -/
def sendUnicast (d : Dev) (q : VoqKey) (t : VItem) (f : Frame) (n : Nat) (cut early : Bool) : Dev :=
  let own := q.die == voqDie q
  let via := pathCode d f q (voqDie q)
  let room := (voqOf d q).room
  let d := onVoq d q fun v => { v with balance := v.balance - n, room := v.room.drop n }
  let d := onPort d q.target fun p => { p with sent := p.sent + n }
  let x := addCopy d
    { fid := f.id, die := voqDie q, port := q.target, ve := destVe f, eg := f.eg, tc := f.tc, own := own,
      cells := if own then [] else room.take n, ncells := n, arrived := own, ended := own && !early, handed := own || !early,
      cut := cut, via := via, ecn := t.ecn, bornAt := d.now }
  let d := popHead x.2 q
  if own then handOver d (copyOf d x.1)
  else
    let y := pushStream d f q via 0 false t.ecn (!early) false
    onCopy y.2 x.1 fun c => { c with secs := y.1 }

/-- A multicast copy, or a punted frame or tap copy for another die, leaves its VOQ (R41, R43, R379); it cuts through to
`cuts`. -/
def sendMulticast (d : Dev) (q : VoqKey) (t : VItem) (f : Frame) (n : Nat) (cuts : List Nat) (early : Bool) : Dev :=
  let e := q.target
  let own := q.die == e
  let via := pathCode d f q e
  let room := (voqOf d q).room
  let d := onVoq d q fun v => { v with balance := v.balance - n, room := v.room.drop n }
  let m : McChain :=
    { die := e, fid := f.id, cells := if own then [] else room.take n, left := [], open' := 0, ecn := t.ecn, begun := false,
      ncells := n, slow := t.slow, arrived := own, ended := own && !early, handed := own || !early, cut := early, cuts := cuts,
      owner := if t.slow then .slowPath else .replication, via := via, tc := f.tc }
  let d := popHead (onDie d e fun x => { x with mcIn := x.mcIn ++ [m] }) q
  if own then d
  else
    let y := pushStream d f q via 0 t.slow t.ecn (!early) false
    onChain y.2 e f.id fun m => { m with secs := y.1 }

/-- The head frame of a VOQ leaves it with `n` cells of credit. -/
def sendHead (d : Dev) (q : VoqKey) (t : VItem) (f : Frame) (n : Nat) (cut early : Bool) : Dev :=
  if q.mc then sendMulticast d q t f n (if cut then cutPorts d q f else []) early else sendUnicast d q t f n cut early

/-- The head of a VOQ is marked ABORTED: its owner discards it (R353). -/
def discardHead (d : Dev) (q : VoqKey) (t : VItem) : Dev := settle (popHead d q) t.fid

/-- A VOQ sends its head frame when its BALANCE covers it, after its last byte or by cut-through; a drain
stops the VOQs of its pair (R386, R399, R400). -/
def voqSend (d : Dev) (q : VoqKey) : Dev :=
  let v := voqOf d q
  if !alive d q.die || !alive d (voqDie q) || (dieOf d q.die).draining.any (fun e => e.1 == voqDie q) then d
  else match v.head with
    | [] => d
    | t :: _ =>
      let f := frameOf d t.fid
      if t.aborted then discardHead d q t
      else if streaming d q f then d
      else if wholeOk f then
        let n := cellCount (sizeOf' f)
        if v.balance ≥ n then settle (sendHead d q t f n (f.len.any (· < 256) && cutOk d q t f) false) f.id else d
      else if !f.good && cutOk d q t f then sendHead d q t f 38 true true
      else d

/- Flits arrive (R390 to R393, R398, R407). -/

/-- A piece of a unicast stream on its egress die (R39, R407). -/
def takeUnicast (d : Dev) (n : Nat) (p : Piece) : Dev :=
  match (copiesOf d p.fid).find? fun c => !c.mc && c.die == n with
  | none => d
  | some c =>
    let d := onCopy d c.id fun c => { c with got := c.got + p.secs }
    if p.bad then
      let b := ((frameOf d p.fid).bad).getD (0, 5)
      abortCopies d [c] b.1 b.2
    else
      let d := onCopy d c.id fun c => { c with ended := c.ended || p.fin }
      if p.start then handOver d (copyOf d c.id) else settle d p.fid

/-- A punted frame or tap copy has wholly crossed to its die: it waits for its ring (R230, R379). -/
def joinCrossed (d : Dev) (n i : Nat) : Dev := match (frameOf d i).dest with
  | .tap => onDie d n fun x => { x with tapQ := x.tapQ ++ [i] }
  | _ => onDie d n fun x => { x with puntQ := puntInsert d i x.puntQ }

/-- A piece of a multicast stream, or of a frame for a punt or tap ring, on its egress die (R43, R379, R407). -/
def takeMulticast (d : Dev) (n : Nat) (p : Piece) : Dev :=
  let d := onChain d n p.fid fun m => { m with got := m.got + p.secs }
  if p.bad then
    let b := ((frameOf d p.fid).bad).getD (0, 5)
    abortChain (abortCopies d ((copiesOf d p.fid).filter fun c => c.die == n) b.1 b.2) n p.fid
  else
    let d := onChain d n p.fid fun m => { m with arrived := true, ended := m.ended || p.fin }
    let d := if p.fin then
        { d with copies := d.copies.map fun c => if c.fid = p.fid && c.die = n then { c with ended := true } else c }
      else d
    if !p.slow then settleChain d n p.fid
    else if p.fin then joinCrossed d n p.fid else d

/-- A flit that has been restored to its place is relayed, or takes effect on its egress die (R395, R398). -/
def takeFlit (d : Dev) (n : Nat) (g : Flit) : Dev :=
  if g.dst ≠ n then onDie d n fun x => { x with relays := kput x.relays g.dst (kget x.relays g.dst [] ++ [{ g with ord := none }]) }
  else g.parts.foldl (fun d p => if g.mc then takeMulticast d n p else takeUnicast d n p) d

/-- A flit of the bridge from die `m` with a place before `k` has yet to reach die `n` (R389). -/
def earlierComes (d : Dev) (m n k : Nat) : Bool :=
  let low := fun g : Flit => g.ord.any (· < k)
  ((bridgeChans d m n).any fun j => (chanOf d m j).replay.any low) || (kget (dieOf d m).outq n []).any low

/-- Flits that die `n` has received from die `m` take effect in the order in which they were dealt (R389). -/
def deliver (m n : Nat) : Nat → Dev → Dev
  | 0, d => d
  | fuel + 1, d =>
    let l := (dieOf d n).rxHold
    match l.findIdx? fun h => h.1 == m && !earlierComes d m n (h.2.ord.getD 0)
        && l.all fun o => o.1 != m || decide (h.2.ord.getD 0 ≤ o.2.ord.getD 0) with
    | none => d
    | some i => match l[i]? with
      | none => d
      | some h => deliver m n fuel (takeFlit (onDie d n fun x => { x with rxHold := l.eraseIdx i }) n h.2)

/-- A channel starts retraining at both its ends and keeps its replay buffers (R393). -/
def retrain (d : Dev) (n j : Nat) : Dev :=
  let down := fun c : Chan => { c with st := .retraining, tries := 0, nak := false }
  match farDie d.part n j with
  | none => d
  | some m => onChan (onChan d n j down) m (farChan d.part j) down

/-- RELAY_FLIT_SEND: a relay die sends the oldest relay flit of a bridge on the channel whose turn it is, in its turn or
when no flit of its own is to be sent; the room goes to the senders (R389, R398). -/
def execRelayFlitSend (die channel : Nat) (s : State) : Host.Outcome State Fault Refusal :=
  onDev s fun d =>
    match farDie d.part die channel with
    | none => d
    | some m =>
      let c := chanOf d die channel
      match kget (dieOf d die).relays m [] with
      | [] => d
      | g :: r =>
        if !alive d die || dealChan d die m != some channel || !chanTakes c
            || (!c.relayTurn && (kget (dieOf d die).outq m []).any (wireable d m)) then d
        else
          let d := wireFlit (onDie d die fun x => { x with relays := kput x.relays m r }) die m channel g true
          ((aliveDies d).filter (· != die)).foldl (fun d n => feed d n die) (feed d die m)

end Sys2Proof.Machine
end

