-- ==== Sys2Proof/Machine/Rx.lean ====
section
/-! DEFINITION. Receiving frames (R26, R85, R112 to R118, R139, R140, R158, R208, R404, R427, R505, R506). -/

namespace Sys2Proof.Machine

/-- The HCRC of a start header is correct (R108, R126). -/
def hcrcOk (h : BitVec 56) : Bool := crc8 (leBytes 6 h.toNat) == bitsOf h.toNat 48 8

/- Time stamps (R505, R506). -/

/-- Effective latency of a lane of a port in ps: the factory's plus the user correction (R506). -/
def latency (d : Dev) (p lane : Nat) (tx : Bool) : Int :=
  let q := portOf d p
  latencyOf d lane (if q.conf.mode = 2 then q.conf.rate + 4 else q.rate) tx (if tx then q.set.txCorr else q.set.rxCorr)

/-- The moment at the medium boundary of what the device records now, in sixteenths of a tick (R506). -/
def boundaryTime (d : Dev) (p lane : Nat) (tx : Bool) : Int :=
  let l := latency d p lane tx / 80
  (sinceStart d : Int) + if tx then l else -l

/-- Whole nanoseconds of a moment in every domain (R502, R507). -/
def stampNs (d : Dev) (t : Int) : List Nat := d.domains.map fun x => wholeNs (domainTime x t)

/-- The receive timestamp of a frame whose timestamp point passes on a lane of a port now (R505 to R507). -/
def rxStamp (d : Dev) (p lane : Nat) : Int × List Nat :=
  let t := boundaryTime d p lane false
  (t, stampNs d t)

/- The start of a frame. -/

/-- Entries that a port and a slice hold in the ingress queue (R25). -/
def portEntries (d : Dev) (n s p : Nat) : Nat := ((sliceOf d n s).queue.filter fun i => (frameOf d i).port == p).length

/-- Class of an Ethernet frame by its outermost tag (R215). -/
def ethClass (q : PortSet) (bytes : List Byte) : Nat :=
  let t := be bytes 12 2
  pcpClass q (if t == 0x8100 || t == 0x88A8 then some (be bytes 14 2) else none)

/-- Whether the package takes frames of the port into its pipeline: not on the peer link, and not while it announces
STANDBY (R140, R158). -/
def pipelined (d : Dev) (p : Nat) : Bool := !isPeerPort d p && roleSent d == 0

/-- A frame begins on a port (R25, R26, R35, R139): its record is made and it joins the ingress queue, or it is dropped
at once. `stamp` is its receive timestamp. -/
def beginFrame (d : Dev) (p : Nat) (stamp : Int × List Nat) (f : Frame) : Nat × Dev :=
  let n := dieOfPort p
  let s := sliceOfPort p
  let x := addFrame d { f with port := p, die := n, rxAt := stamp.1, rxNs := stamp.2, laneIn := laneCode d p, stage := if pipelined d p then .ingress else .gone }
  let d := onPort x.2 p fun q => { q with lastRx := d.now }
  if isSpindle d p && !(portOf d p).roleSeen then
    (x.1, onFrame (dropFrame d x.1 drRxFraming) x.1 fun f => { f with counted := true })
  else if !pipelined d p then (x.1, d)
  else if portEntries d n s p ≥ 1024 || (sliceOf d n s).queue.length ≥ 4096 then (x.1, dropFrame d x.1 drIngressOverrun)
  else (x.1, onSlice d n s fun y => { y with queue := y.queue ++ [x.1], idleAt := d.now })

/- The end of a frame. -/

/-- The tail checks of a frame whose last byte has arrived after its parsing (R204, R208, R213, R214). -/
def tailCheck (d : Dev) (i : Nat) : Dev :=
  let f := frameOf d i
  let present := sizeOf' f - 4
  let conflict := f.parsed.tailBad.any fun c => c.1 == 0 && decide (present < c.2)
  let trailer := f.parsed.tailBad.any fun c => c.1 == 1 && decide (c.2 < present)
  let d := if conflict && !bitOf f.parsed.pflags 14 then bumpPort d f.port cntLenConflict 1 else d
  let d := if trailer then bumpPort d f.port cntLenTrailer 1 else d
  if f.dropped then d
  else if conflict && f.acts.getD 0 0 % 8 == 1 then badFrame d i drLenConflict 3
  else if trailer && f.acts.getD 5 0 % 8 == 1 then badFrame d i drLenConflict 5
  else d

/-- The host copies of a frame receive its bytes and join the slow path (R220, R226). -/
def endHostCopies (d : Dev) (i : Nat) : Dev :=
  let f := frameOf d i
  ((mirrorsOf d i).filter fun c => c.kind == .copyHost && c.len.isNone).foldl (fun d c =>
    joinSlow (onFrame d c.id fun c => { c with bytes := f.bytes, len := f.len, endAt := f.endAt, good := true }) c.id) d

/-- A frame has ended and passed the checks of R116 or R404. A peer frame waits for the Keeper (R158). Of any other: its tail checks, its reception counts, step 6 when it
waited, its copies, its streams and the slow path follow. A package that announces STANDBY when the frame ends drops it,
also one that began before (R140). -/
def frameEnded (d : Dev) (i : Nat) : Dev :=
  let d := onFrame d i fun f => { f with good := true, endAt := d.now }
  let f := frameOf d i
  if isPeerPort d f.port then
    settle (onFrame { d with ha := { d.ha with inbox := d.ha.inbox ++ [f.bytes] } } i fun f =>
      { f with dropped := true, counted := true }) i
  else if f.stage == .gone && !f.dropped then dropFrame d i drRoleStandby
  else if roleSent d != 0 && !f.dropped then settle (badFrame d i drRoleStandby 5) i
  else
    let d := tailCheck (countReceived d i) i
    let f := frameOf d i
    if !f.good then d
    else
      let d := endHostCopies (judgeMirrors (endMirrors (countRuleBytes d f) i) i) i
      let d := if f.dropped then d
        else if f.stage == .police then policeFrame d i
        else if f.stage == .slow then joinSlow d i
        else if f.stage == .admitted then settleSpill (endStreams d i) i
        else d
      settle (countReceived d i) i

/-- Reception of a frame ends badly: it is dropped, or found bad, under one reason (R114 to R118, R404). -/
def failFrame (d : Dev) (i reason code : Nat) : Dev :=
  let d := onFrame d i fun f => { f with len := some f.bytes.length }
  settle (badFrame d i reason code) i

/-- Bytes are appended to a frame: further cells are requested and copies whose length becomes known are judged (R309,
R733). -/
def appendBytes (d : Dev) (i : Nat) (l : List Byte) : Dev :=
  let d := onFrame d i fun f => { f with bytes := f.bytes ++ l }
  let f := frameOf d i
  let d := advanceStreams (if f.passed3 then askCells d i else d) i
  if f.stage == .admitted then judgeMirrors d i else d

/-- The frame check sequence of a frame is right (R104). -/
def fcsOk (l : List Byte) : Bool := ofLe (l.drop (l.length - 4)) == crc32 (l.take (l.length - 4))

/-- The received FCS is the complement of the CRC-32 (R404). -/
def fcsStomped (l : List Byte) : Bool := ofLe (l.drop (l.length - 4)) == crc32 (l.take (l.length - 4)) ^^^ 0xFFFFFFFF

/- Blocks of a Spindle port (R114). -/

/-- A port takes part in receiving: its link is UP and its receiver is on. In L2 it is on during the check window of the
exit, and for the rest of a frame that began before it turned off (R73, R77, R78). -/
def receiving (d : Dev) (p : Nat) : Bool :=
  let q := portOf d p
  isSpindle d p && portUp d p && (q.power != .l2 || q.phase == .l2Check || q.rx == .inFrame)

/-- The receiver of a port whose link is UP is on: in L2 while it retrains and is checked on the exit, and for the rest of a
frame that began before it turned off (R73, R77, R78). -/
def rxOn (d : Dev) (p : Nat) : Bool :=
  let q := portOf d p
  q.power != .l2 || q.phase == .l2Train || q.phase == .l2Check || q.rx == .inFrame

/-- A port in bring-up or in quarantine has its receiver on, though it processes no frame (R57, R85). -/
def hears (d : Dev) (p : Nat) : Bool :=
  let l := (portOf d p).link
  isSpindle d p && alive d (dieOfPort p) && (l == .seek || l == .stepping || l == .quarantine)

/-- The stream of a port advances by a block (R98). -/
def nextBlock (d : Dev) (p : Nat) : Dev :=
  let w := max 1 (portOf d p).conf.width
  onPort d p fun q => { q with rxBlk := (q.rxBlk + 1) % w, rxRow := if q.rxBlk + 1 ≥ w then q.rxRow + 1 else q.rxRow }

/-- A block that arrives on a port that processes no frame (R70, R85). -/
def passBlock (d : Dev) (p : Nat) : Dev := if hears d p then nextBlock d p else d

/-- A row of ordered sets that arrives on a port that processes none is a row of its lanes like any other (R70, R85). -/
def passRow (d : Dev) (p : Nat) : Dev :=
  if hears d p then onPort d p fun q => { q with rxRow := q.rxRow + 1, rxBlk := 0 } else d

/-- Every block of a port advances its stream and wakes its slice (R98, R485). -/
def blockSeen (d : Dev) (p : Nat) : Dev :=
  let d := if (sliceOf d (dieOfPort p) (sliceOfPort p)).pow == .on then d else wakeSlice d (dieOfPort p) (sliceOfPort p)
  nextBlock d p

/-- The lane of a port whose HELLO carries LANE index `i`; before a HELLO has, the lane at that place (R54, R98). -/
def laneAt (d : Dev) (p i : Nat) : Nat :=
  ((portLanes d p).find? fun l => (laneOf d l).helloAt.isSome && bitsOf (laneOf d l).hello.toNat 0 3 == i).getD (p + i)

/-- The lane that carries the next block of a port's stream (R98). -/
def blockLane (d : Dev) (p : Nat) : Nat := laneAt d p (portOf d p).rxBlk

def setRx (d : Dev) (p : Nat) (st : RxSt) (f : Option Nat) : Dev := onPort d p fun q => { q with rx := st, rxFrame := f }

/-- The frame that a port is receiving, when it is in state IN, is broken off as DR_RX_FRAMING, and so is one held in the
MAC (R114, R118, R404). -/
def breakFrame (d : Dev) (p : Nat) : Dev :=
  let q := portOf d p
  let d := match q.macHold with
    | some h => countDrop (onPort d p fun q => { q with macHold := none }) (dieOfPort p) (some p) none drRxFraming h.2.length
    | none => d
  match q.rx, q.rxFrame with
  | .inFrame, some i => failFrame (setRx d p .out none) i drRxFraming 3
  | _, _ => d

/-- An IDLE block (R114). -/
def execRxIdleBlock (port : Nat) (s : State) : Host.Outcome State Fault Refusal :=
  onDev s fun d => if !receiving d port then passBlock d port else setRx (breakFrame (blockSeen d port) port) port .out none

/-- A START block (R108, R114). A quarantined port counts the frame start as one drop (R85). -/
def execRxStartBlock (port : Nat) (header : BitVec 56) (s : State) : Host.Outcome State Fault Refusal :=
  onDev s fun d =>
    if isSpindle d port && (portOf d port).link == .quarantine && alive d (dieOfPort port) then
      let d := passBlock d port
      if hcrcOk header then countDrop d (dieOfPort port) (some port) none drQuarantine 0 else d
    else if !receiving d port then passBlock d port
    else
      let lane := blockLane d port
      let d := blockSeen (breakFrame d port) port
      if !hcrcOk header then setRx (bumpPort d port cntRxHdrBad 1) port .discard none
      else
        let h := header.toNat
        let req := bitOf h 15
        let x := beginFrame d port (rxStamp d port lane)
          { ve := bitsOf h 0 12, tc := bitsOf h 12 3, tsReq := req, tsId := if req then bitsOf h 16 16 else 0 }
        setRx x.2 port .inFrame (some x.1)

/-- A DATA block (R114, R115). -/
def execRxDataBlock (port : Nat) (data : BitVec 64) (s : State) : Host.Outcome State Fault Refusal :=
  onDev s fun d =>
    if !receiving d port then passBlock d port
    else
      let d := blockSeen d port
      let q := portOf d port
      match q.rx, q.rxFrame with
      | .out, _ => bumpPort d port cntRxStray 1
      | .inFrame, some i =>
        let d := appendBytes d i (leBytes 8 data.toNat)
        if (frameOf d i).bytes.length ≥ 9729 then failFrame (setRx d port .discard none) i drRxFraming 3 else d
      | _, _ => d

/-- A terminate block Tk (R114 to R116). -/
def execRxTerminateBlock (port : Nat) (k : Nat) (data : BitVec 56) (s : State) : Host.Outcome State Fault Refusal :=
  onDev s fun d =>
    if !receiving d port || k ≥ 8 then passBlock d port
    else
      let d := blockSeen d port
      let q := portOf d port
      match q.rx, q.rxFrame with
      | .out, _ => bumpPort d port cntRxStray 1
      | .inFrame, some i =>
        let d := appendBytes (setRx d port .out none) i (leBytes k data.toNat)
        let l := (frameOf d i).bytes
        let d := onFrame d i fun f => { f with len := some l.length }
        if l.length ≥ 9729 || l.length < 64 then failFrame d i drRxFraming 3
        else if !fcsOk l then failFrame d i drRxFcs 1
        else frameEnded d i
      | _, _ => setRx d port .out none

/-- A STOMP block (R113, R114). -/
def execRxStompBlock (port : Nat) (_reason : BitVec 8) (s : State) : Host.Outcome State Fault Refusal :=
  onDev s fun d =>
    if !receiving d port then passBlock d port
    else
      let d := bumpPort (blockSeen d port) port cntStompRx 1
      let q := portOf d port
      match q.rx, q.rxFrame with
      | .out, _ => bumpPort d port cntRxStray 1
      | .inFrame, some i => failFrame (setRx d port .out none) i drRxStomp 5
      | _, _ => setRx d port .out none

/-- A bad block breaks the frame being received (R114). -/
def badBlock (d : Dev) (p : Nat) (inFec : Bool) : Dev :=
  let d := bumpPort (blockSeen d p) p cntRxBadBlock 1
  let q := portOf d p
  match q.rx, q.rxFrame with
  | .inFrame, some i => if inFec then failFrame (setRx d p .discard none) i drRxFec 2
      else failFrame (setRx d p .discard none) i drRxFraming 3
  | _, _ => d

/- Ethernet frames (R404, R427). -/

/-- The checks of an Ethernet frame at its end, in the order of R404; the complemented FCS is counted whatever the
reason. -/
def ethEnded (d : Dev) (i : Nat) (err : EthErr) : Dev :=
  let f := frameOf d i
  let d := if fcsStomped f.bytes then bumpPort d f.port cntStompRx 1 else d
  let d := onFrame d i fun f => { f with len := some f.bytes.length }
  if err == .framing || f.bytes.length > 9728 then failFrame d i drRxFraming 3
  else if err == .fec then failFrame d i drRxFec 2
  else if !fcsOk f.bytes then failFrame d i drRxFcs 1
  else frameEnded d i

/-- A number of quanta of 512 bit times of the port in time units (R429). -/
def quantaTime (d : Dev) (p k : Nat) : Nat := ceilDiv (k * 512 * 12500) (max 1 (payloadGbps d p * 1000))

/-- A MAC control frame ends in the MAC: it is counted, and acted on as PAUSE or PFC under FC_MODE (R427 to R430). It
takes effect at once, within the bound of R430. -/
def macControl (d : Dev) (port : Nat) (bytes : List Byte) : Dev :=
  let d := bumpPort (blockSeen d port) port cntPauseRx 1
  let set := (portOf d port).set
  let op := be bytes 14 2
  let until' := fun k => d.now + quantaTime d port k
  if op == 1 && set.fcMode == 1 then
    stallCheck (onPort d port fun q =>
      (List.range 8).foldl (fun q c => setPaused q c (until' (be bytes 16 2)) d.now) q) port
  else if op == 0x0101 && set.fcMode == 2 then
    stallCheck (onPort d port fun q =>
      (bitList 8 (be bytes 16 2 % 256)).foldl
        (fun q c => setPaused q c (until' (be bytes (18 + 2 * c) 2)) d.now) q) port
  else d

/-- A whole MAC control frame that passes the checks of R404 (R427). -/
def isMacControl (bytes : List Byte) : Bool := be bytes 12 2 == 0x8808 && fcsOk bytes && decide (bytes.length ≤ 9728)

/-- Bytes of an Ethernet frame arrive on a port, and its end when `fin` is present; the first bytes begin it. A frame
that begins on a quarantined port is one drop (R26, R85, R196, R404). A frame that passes 9,728 bytes is dropped there, and
its FCS is still judged for a stomp at its end. A MAC control frame ends in the MAC: a frame stays there while its EtherType
is that of one, or has not arrived yet (R427). -/
def ethFrame (d : Dev) (port : Nat) (bytes : List Byte) (fin : Option EthErr) : Dev :=
  let q := portOf d port
  let rest : RxSt := if fin.isSome then .out else .discard
  if !isEth d port || !alive d (dieOfPort port) then d
  else if q.link != .quarantine && !portUp d port then d
  else if q.rx == .discard then setRx d port rest none
  else if q.link == .quarantine then setRx (countDrop d (dieOfPort port) (some port) none drQuarantine 0) port rest none
  else
    let hold := q.macHold.getD (rxStamp d port port, [])
    let all := hold.2 ++ bytes
    let d := onPort d port fun q => { q with macHold := none }
    let mac := q.rx != .inFrame && decide (all.length ≤ 9728) && (decide (all.length < 14) || be all 12 2 == 0x8808)
    if mac && fin.isNone then onPort (blockSeen d port) port fun q => { q with macHold := some (hold.1, all) }
    else if q.rx != .inFrame && fin == some .none && isMacControl all then macControl d port all
    else
    let d := blockSeen d port
    let x := match q.rx, q.rxFrame with
      | .inFrame, some i => (i, d)
      | _, _ => beginFrame d port hold.1 { tc := ethClass q.set all }
    let d := appendBytes (setRx x.2 port .inFrame (some x.1)) x.1 all
    match fin with
    | some err => ethEnded (setRx d port .out none) x.1 err
    | none => if (frameOf d x.1).bytes.length > 9728 then badFrame d x.1 drRxFraming 3 else d

/-- ETH_RX_FRAME. -/
def execEthRxFrame (port : Nat) (bytes : List Byte) (fin : Option EthErr) (s : State) :
    Host.Outcome State Fault Refusal :=
  onDev s fun d => ethFrame d port bytes fin

/-- ETH_RX_MAC_CONTROL: a frame with EtherType 0x8808; one with a wrong FCS is no MAC control frame but a frame dropped for it
(R404, R427). -/
def execEthRxMacControl (port : Nat) (bytes : List Byte) (s : State) : Host.Outcome State Fault Refusal :=
  onDev s fun d => if be bytes 12 2 == 0x8808 then ethFrame d port bytes (some .none) else d

end Sys2Proof.Machine
end

