-- ==== Sys2Proof/Machine/Allocator.lean ====
section
/-! DEFINITION. The allocator of a die's comb in one clock (R342, R343, R346 to R349, R733), the pending readback
(R366) and the audit of the comb (R340, R612). -/

namespace Sys2Proof.Machine

/-- One cell fewer is requested for a frame. -/
def takeRequest : List (Nat × Nat × Nat) → Nat → List (Nat × Nat × Nat)
  | [], _ => []
  | (s, f, k) :: r, i =>
    if f = i then (if k ≤ 1 then r else (s, f, k - 1) :: r) else (s, f, k) :: takeRequest r i

/-- A request takes its place among those of a member: the oldest frame first (R347). -/
def insertRequest (r : Nat × Nat × Nat) : List (Nat × Nat × Nat) → List (Nat × Nat × Nat)
  | [] => [r]
  | x :: l => if r.2.1 < x.2.1 then r :: x :: l else x :: insertRequest r l

/-- The cells that a member requests in this clock, oldest frame first: at most 2 for a slice, members 0 to 3; for the
Keeper, member 4, as many as one clock can grant (R346, R347; DESIGN CHOICE, log 60). -/
def memberUnits (b : Comb) (m : Nat) : List Nat :=
  let k := if m = 4 then 16 else 2
  (((b.requests.filter (·.1 == m)).foldr insertRequest []).flatMap fun r => List.replicate (min r.2.2 k) r.2.1).take k

/-- A clock's grants so far: the frames that were refused, with their reasons, and the device. -/
abbrev Clock := List (Nat × Nat) × Dev

/-- The Keeper's frame has all its cells: it joins group 0 of its port in TC7 (R455). -/
def sendKeeper (d : Dev) (f : Frame) : Dev :=
  let d := onFrame d f.id fun f => admitted f .admitted
  let x := addCopy d { fid := f.id, die := f.die, port := f.egPort, tc := 7, own := true, bornAt := d.now }
  handOver x.2 (copyOf x.2 x.1)

/-- What a cell makes possible: a frame of the Keeper that is whole goes to its port, and streams that are leaving go on or
are ended (R386, R390, R403). -/
def afterCell (d : Dev) (i : Nat) : Dev :=
  let f := frameOf d i
  if f.kind = .keeper then (if wholeOk f && (copiesOf d i).isEmpty then sendKeeper d f else d)
  else if f.good then endStreams d i else advanceStreams d i

/-- Serve one requested cell from a pool: the quotas are judged first, then the pool (R354). -/
def serveCell (x : Clock) (n pool i : Nat) : Clock :=
  if x.1.any (·.1 == i) then x
  else
    let f := frameOf x.2 i
    let d := onComb x.2 n fun b => { b with requests := takeRequest b.requests i }
    let pays := f.charged.filter fun _ => f.kind == .received && !f.byKeeper
    if pays.any fun ch => !cellAdmitted d n ch then ((i, drQuota) :: x.1, d)
    else match drawCell d n pool with
      | (none, d) => ((i, drCombEmpty) :: x.1, d)
      | (some c, d) =>
        let d := onFrame d i fun f => { f with chain := f.chain ++ [.cell c] }
        (x.1, match pays with
          | some ch => decidePause (onFrame (chargeComb d n ch.1 ch.2.1 1) i fun f => { f with paid := f.paid + 1 }) f.port
          | none => d)

/-- The requests for TC7 frames of a slice draw on the TC7 reserve, and those of the Keeper on its own, while it has a cell
left; the others stay for the shared pool (R343, R347). -/
def serveReserve (n m : Nat) : List Nat → Clock → List Nat × Clock
  | [], x => ([], x)
  | i :: r, x =>
    let pool := if m = 4 then 2 else 1
    if (m == 4 || (frameOf x.2 i).tc == 7) && decide (poolLeft (combOf x.2 n) pool ≥ 1) then
      serveReserve n m r (serveCell x n pool i)
    else
      let y := serveReserve n m r x
      (i :: y.1, y.2)

/-- A frame whose cell was refused is dropped; a refusal before steps 4 to 6 have decided it holds the drop (R348,
R733). -/
def refuseFrame (d : Dev) (i reason : Nat) : Dev :=
  let f := frameOf d i
  let d := onComb d f.die fun b => { b with requests := b.requests.filter fun r => r.2.1 != i }
  match f.kind with
  | .received => if f.stage == .admitted || f.stage == .slow then badFrame d i reason 5 else onFrame d i fun f => { f with held := some (reason, 5) }
  | _ => dropCopyFrame d f reason

/-- The VOQs of a die, in their rotation. -/
def voqsOf (d : Dev) (n : Nat) : List VoqKey := (d.voqs.filter fun e => e.1.die == n).map (·.1)

/-- The VOQ requests readback (R366). -/
def wantsRead (d : Dev) (q : VoqKey) : Bool :=
  let v := voqOf d q
  let reads := v.pages.filter fun p => p.st == .reading
  v.pages.any (fun p => p.st == .stored) && decide (reads.length < 4)
    && decide (headCells d v + (reads.map fun p => p.cells.length).sum < (bufOf d q).readTh)

/-- The readback that is to be granted cells next, when none is (R366). -/
def pickRead (d : Dev) (n : Nat) : Dev :=
  if (combOf d n).readWait.isSome then d
  else match (rotateAfter (voqsOf d n) fun q => some q == (dieOf d n).readRot).find? (wantsRead d) with
    | none => d
    | some q => match (voqOf d q).pages.find? fun p => p.st == .stored with
      | none => d
      | some p => onDie d n fun x => { x with readRot := some q, comb := { x.comb with readWait := some (q, p.idx, []) } }

/-- The pending readback takes shared cells, at most 4 in a clock and 16 in all (R346, R347, R366). -/
def feedRead (d : Dev) (n : Nat) : Dev :=
  match (combOf d n).readWait with
  | none => d
  | some (q, p, l) =>
    let x := drawCells n 0 (min 4 (16 - l.length)) d
    onComb x.2 n fun b => { b with readWait := some (q, p, l ++ x.1) }

/-- Cells at the head of the list that belong to a bank that is not ON, or to a retired row group, are unlinked by the slots of a
clock that no grant needs (R487). -/
def unlinkSpare : Nat → Comb → Comb
  | 0, b => b
  | k + 1, b => match b.free with
    | [] => b
    | (a, n) :: r =>
      if n ≠ 0 && !unlisted b a then b
      else unlinkSpare k { b with free := if n ≤ 1 then r else (a + 1, n - 1) :: r }

/-- One clock of the allocator (R346 to R349, R487): reserve draws, the Keeper's first, the pending readback, and the shared
requests of the five members in rotation, of the Keeper at most one. What the cells make possible follows after the grants,
and cells of refused frames return then. -/
def allocClock (d : Dev) (die : Nat) : Dev :=
  if !alive d die then d
  else
    let b := combOf d die
    let order := (List.range 5).map fun k => (b.rot + k) % 5
    let d := pickRead d die
    let first := (4 :: order.filter (· < 4)).foldl (fun (a : List (Nat × List Nat) × Clock) m =>
      let y := serveReserve die m (memberUnits b m) a.2
      (a.1 ++ [(m, if m = 4 then y.1.take 1 else y.1)], y.2)) ([], ([], d))
    let x : Clock := (first.2.1, feedRead first.2.2 die)
    let x := (order.flatMap fun m => kget first.1 m []).foldl (fun x i => serveCell x die 0 i) x
    let granted := (combOf x.2 die).held.length - b.held.length
    let x : Clock := (x.1, onComb x.2 die (unlinkSpare (16 - granted)))
    let asked := ((List.range 5).flatMap (memberUnits b)).eraseDups.filter fun i => !x.1.any (·.1 == i)
    let d := x.1.reverse.foldl (fun d r => refuseFrame d r.1 r.2) (asked.foldl afterCell x.2)
    onComb d die fun b => { b with rot := (b.rot + 1) % 5 }

/-- Cells of a die that belong to a chain, to a credit or to a readback. -/
def usedCells (d : Dev) (n : Nat) : List Nat :=
  ((d.frames.filter fun f => f.die == n).flatMap fun f => cellsOf f.chain)
    ++ ((d.copies.filter fun c => c.die == n).flatMap (·.cells)) ++ ((dieOf d n).mcIn.flatMap (·.cells))
    ++ ((d.voqs.filter fun e => voqDie e.1 == n).flatMap fun e => e.2.room)
    ++ ((d.voqs.filter fun e => e.1.die == n).flatMap fun e => e.2.pages.flatMap (·.into))
    ++ (match (combOf d n).readWait with
      | some (_, _, l) => l
      | none => [])

/-- COMB_AUDIT: firmware's audit of the comb, when one is due, returns and counts every HELD cell that belongs to no
chain (R340, R612). -/
def execCombAudit (die : Nat) (s : State) : Host.Outcome State Fault Refusal :=
  onDev s fun d =>
    let b := combOf d die
    if !alive d die || !b.audit then d
    else
      let used := usedCells d die
      let lost := (b.held.map (·.cell)).filter fun c => !used.contains c
      bumpDie (returnCells die lost (onComb d die fun b => { b with audit := false })) die cntCombReclaimed lost.length

end Sys2Proof.Machine
end

