-- ==== Sys2Proof/Machine/Registers.lean ====
section
/-! DEFINITION. Direct registers, doorbells, the indirect window, interrupts and function-level resets (chapter 14),
but for the guarded writes, which Guard.lean holds. -/

namespace Sys2Proof.Machine

/-- The direct registers of a die can be reached: its endpoint is up and start-up has passed step 8 (R675, R679). -/
def regsUp (d : Dev) (n : Nat) : Bool :=
  alive d n && !(dieOf d n).perst && (dieOf d n).pcieUp && (d.run != .reset && d.run != .haltedStart)

/-- The VFs of a die are present: they share the one link, or link 1 of two is connected (R577). -/
def vfsUp (x : Die) : Bool := !x.split || x.link1

/-- The registers of a function of a die can be reached. -/
def fnUp (d : Dev) (n : Nat) (fn : Fn) : Bool := regsUp d n && match fn with
  | .vf _ => vfsUp (dieOf d n)
  | _ => true

/-- The function that holds the block of a punt or tap ring (R592). -/
def ringFn : PRing → Fn
  | .punt _ => .pf1
  | .tap k => .vf k

/- Doorbells (R542 to R545, R583). -/

/-- A write of CMD_DB_k: PROD when it is at most 256 ahead of FETCH, else FULL (R543). -/
def execCmdDbWrite (die ring : Nat) (value : Word) (s : State) : Host.Outcome State Fault Refusal :=
  onDev s fun d =>
    let r := ringOf d die ring
    let v := value.toNat % two16
    if !regsUp d die || !(dieOf d die).ready || !decide (ring < 8) || !r.enable then d
    else if (v + two16 - r.fetch) % two16 > 256 then
      setCause (onRing d die ring fun r => { r with
        full := true
        fullAt := some d.now }) die intFull
    else onRing d die ring fun r => { r with prod := v }

/-- A write of CPL_DB_k: the new CONS (R542, R544). -/
def execCplDbWrite (die ring : Nat) (value : Word) (s : State) : Host.Outcome State Fault Refusal :=
  onDev s fun d =>
    if !regsUp d die || !(dieOf d die).ready || !decide (ring < 8) || !(ringOf d die ring).enable then d
    else onRing d die ring fun r => { r with cons := value.toNat % two16 }

/-- A write of EVT_DB: the new CONS, refused when it passes entries not written or the ring is disabled (R583); freed
entries first take the notices of lost events (R571). -/
def execEvtDbWrite (die : Nat) (value : Word) (s : State) : Host.Outcome State Fault Refusal :=
  onDev s fun d =>
    let e := (dieOf d die).evt
    let v := value.toNat % two16
    let ahead := (v + two16 - e.write) % two16
    if !regsUp d die || !(dieOf d die).ready || !e.enable || (ahead != 0 && decide (ahead ≤ 64512)) then d
    else ringFreed (onDie d die fun x => { x with evt := { x.evt with cons := v } }) die

/-- A write of 1 to MB_CTRL.RESTART restarts a halted mailbox channel, and the held completions are written (R582). -/
def execMbCtrlRestart (die : Nat) (value : Word) (s : State) : Host.Outcome State Fault Refusal :=
  onDev s fun d =>
    if !regsUp d die || !(dieOf d die).mbHalt || !bitOf value.toNat 0 then d
    else ringFreed (flushPends (onDie d die fun x => { x with mbHalt := false })) die

/- The indirect window (R584 to R587). -/

/-- The word address is mapped on the die (R586, R587). -/
def indMapped (n a : Nat) : Bool :=
  (decide (a < 0x100) && decide (a % 32 < 0x14)) || (decide (0x100 ≤ a) && decide (a < 0x10C))
    || (decide (0x20000 ≤ a) && decide (a < 0x20030)) || (n == 0 && decide (0x80000000 ≤ a) && decide (a < 0x80000008))

/-- Low or high half of a 64-bit base register replaced; the low half keeps bits [31:12] (R587). -/
def setLo (b v : Nat) : Nat := b / two32 * two32 + v / 4096 * 4096
def setHi (b v : Nat) : Nat := v * two32 + b % two32

/-- A refused indirect access sets ERR (R586). -/
def indErr (d : Dev) (n : Nat) : Dev := onDie d n fun x => { x with
  indErr := true
  indErrAt := some d.now }

/-- ENABLE of a command ring rises: every count becomes 0 and FULL is cleared (R541). -/
def enableRing (d : Dev) (n k vec : Nat) : Dev :=
  onRing d n k fun r => { r with
    enable := true, vector := vec, prod := 0, fetch := 0, write := 0, cons := 0, full := false, epoch := r.epoch + 1 }

/-- ENABLE of a command ring is cleared: no fetch and no completion follow (R541). -/
def disableRing (d : Dev) (n k vec : Nat) : Dev :=
  { onRing d n k (fun r => { r with enable := false, vector := vec }) with
    pends := d.pends.filter fun p => !(p.die == n && p.ring == k) }

/-- The event ring is enabled: its counts become 0, dies that discarded events report them, and on d0 the dies that
start-up found lost are reported (R541, R571, R677). -/
def enableEvt (d : Dev) (n vec : Nat) : Dev :=
  let on := fun e : EvtRing => { e with enable := true, vector := vec, write := 0, cons := 0 }
  let d := ringFreed (onDie d n fun x => { x with evt := on x.evt }) n
  if n = 0 then d.lostAtBoot.foldl (fun d k => raise d 0 evDieLost (leBytes 1 k)) { d with lostAtBoot := [] } else d

def disableEvt (d : Dev) (n vec : Nat) : Dev :=
  onDie d n fun x => { x with evt := { x.evt with enable := false, vector := vec } }

/-- A write of RING_CTRL_k or EVT_CTRL, or of a base register, takes effect; a refused one sets ERR (R586, R587). -/
def applyInd (d : Dev) (n a : Nat) (value : Word) : Dev :=
  let v := value.toNat
  let vec := bitsOf v 8 5
  let k := a / 32
  if !indMapped n a then indErr d n
  else if a < 0x100 then
    let r := ringOf d n k
    if a % 32 = 0x10 then
      if bitOf v 0 && !r.enable then enableRing d n k vec
      else if !bitOf v 0 && r.enable then disableRing d n k vec
      else onRing d n k fun r => { r with vector := vec }
    else if r.enable then indErr d n
    else onRing d n k fun r => match a % 32 with
      | 0x00 => { r with cmdBase := setLo r.cmdBase v }
      | 0x04 => { r with cmdBase := setHi r.cmdBase v }
      | 0x08 => { r with cplBase := setLo r.cplBase v }
      | _ => { r with cplBase := setHi r.cplBase v }
  else if a = 0x108 then
    let e := (dieOf d n).evt
    if bitOf v 0 && !e.enable then enableEvt d n vec
    else if !bitOf v 0 && e.enable then disableEvt d n vec
    else onDie d n fun x => { x with evt := { x.evt with vector := vec } }
  else if a < 0x108 then
    if (dieOf d n).evt.enable then indErr d n
    else onDie d n fun x => { x with evt := { x.evt with
      base := if a = 0x100 then setLo x.evt.base v else setHi x.evt.base v } }
  else d

/-- Writes of IND_ADDR and IND_CTRL that wait behind no write of IND_DATA any more take effect (R585): a 1 written to ERR
clears it, unless it was set in that cycle (R17). -/
def settleRegs (now : Nat) : List IndW → Die → Die
  | .addr v :: r, x => settleRegs now r { x with indAddr := v / 4 * 4 }
  | .ctrl v :: r, x =>
    settleRegs now r { x with autoInc := bitOf v 0, indErr := writeOneClear x.indErr x.indErrAt now (bitOf v 2) }
  | l, x => { x with indQ := l }

def settleInd (d : Dev) (n : Nat) : Dev := onDie d n fun x => settleRegs d.now x.indQ x

/-- IND_ADDR after an access to IND_DATA (R584). -/
def autoIncrement (x : Die) : Die := if x.autoInc then { x with indAddr := (x.indAddr + 4) % two32 } else x

/-- The oldest pending indirect write takes effect at the word that IND_ADDR names (R584, R585). -/
def indStep (d : Dev) (n : Nat) : Dev :=
  match (dieOf d n).indQ with
  | .data v :: r =>
    settleInd (onDie (applyInd (onDie d n fun x => { x with indQ := r }) n (dieOf d n).indAddr v) n autoIncrement) n
  | _ => settleInd d n

/-- Every pending indirect write takes effect, in order (R585). -/
def indFlush (d : Dev) (n : Nat) : Dev := (List.range (dieOf d n).indQ.length).foldl (fun d _ => indStep d n) d

/-- A write to IND_DATA joins the pending indirect writes. At most 8 are pending: with 8 of them the write waits in the
PCIe write path until the oldest has taken effect, which it does there and then (R585). -/
def execIndDataWrite (die : Nat) (value : Word) (s : State) : Host.Outcome State Fault Refusal :=
  onDev s fun d =>
    if !regsUp d die then d
    else
      let pendingData := fun w : IndW => match w with
        | .data _ => true
        | _ => false
      let d := if (dieOf d die).indQ.countP pendingData ≥ 8 then indStep d die else d
      onDie d die fun x => { x with indQ := x.indQ ++ [.data value] }

/-- The word that an indirect read returns (R587). -/
def indWord (d : Dev) (n a : Nat) : Nat :=
  let x := dieOf d n
  let k := a / 32
  let r := x.rings.getD k {}
  if !indMapped n a then 0
  else if a < 0x100 then match a % 32 with
    | 0x00 => r.cmdBase % two32
    | 0x04 => r.cmdBase / two32
    | 0x08 => r.cplBase % two32
    | 0x0C => r.cplBase / two32
    | _ => r.vector * 256 + atBit 0 r.enable
  else if a = 0x100 then x.evt.base % two32
  else if a = 0x104 then x.evt.base / two32
  else if a = 0x108 then x.evt.vector * 256 + atBit 0 x.evt.enable
  else if a < 0x80000000 then
    let w := x.rails.getD ((a - 0x20000) / 8) (0, 0)
    if a % 8 = 0 then w.1 else w.2
  else if a = 0x80000000 then
    atBit 4 d.pwrOk + atBit 3 d.ppsIn.level + atBit 2 d.queen.level + atBit 1 d.fault.level + atBit 0 d.alert
  else 0

/-- A read of IND_DATA waits for every earlier write, returns the word, sets ERR when refused, and auto-increments
(R584 to R586). The word is recorded as an output. -/
def execIndDataRead (die : Nat) (s : State) : Host.Outcome State Fault Refusal :=
  onDev s fun d =>
    if !regsUp d die then d
    else
      let d := indFlush d die
      let a := (dieOf d die).indAddr
      let d := emit d (.indRead die (BitVec.ofNat 32 (indWord d die a)))
      let d := if indMapped die a then d else indErr d die
      onDie d die autoIncrement

/-- What the oldest pending indirect write of a die is, by the row that it belongs to. -/
inductive IndClass where
  | nothing
  | ringOn
  | ringOff
  | evtOn
  | evtOff
  | other
  deriving DecidableEq, Repr

def indClass (d : Dev) (n : Nat) : IndClass :=
  match (dieOf d n).indQ with
  | .data v :: _ =>
    let a := (dieOf d n).indAddr
    let on := bitOf v.toNat 0
    if a < 0x100 && a % 32 == 0x10 then
      let e := (ringOf d n (a / 32)).enable
      if on && !e then .ringOn else if !on && e then .ringOff else .other
    else if a = 0x108 then
      let e := (dieOf d n).evt.enable
      if on && !e then .evtOn else if !on && e then .evtOff else .other
    else .other
  | _ => .nothing

/-- The oldest pending write takes effect when it is of class `k`. -/
def indTake (d : Dev) (n : Nat) (k : IndClass) : Dev := if alive d n && indClass d n == k then indStep d n else d

/-- The pending write that sets ENABLE of a command ring takes effect (R541). -/
def execRingEnable (die : Nat) (s : State) : Host.Outcome State Fault Refusal := onDev s fun d => indTake d die .ringOn

/-- The pending write that clears ENABLE of a command ring takes effect (R541). -/
def execRingDisable (die : Nat) (s : State) : Host.Outcome State Fault Refusal := onDev s fun d => indTake d die .ringOff

/-- The pending write that enables the event ring takes effect (R571). -/
def execEvtRingEnable (die : Nat) (s : State) : Host.Outcome State Fault Refusal := onDev s fun d => indTake d die .evtOn

/-- The pending write that disables the event ring takes effect (R571). -/
def execEvtRingDisable (die : Nat) (s : State) : Host.Outcome State Fault Refusal :=
  onDev s fun d => indTake d die .evtOff

/-- A pending write of a base, a vector or a word that cannot be written takes effect (R586). -/
def execIndirectWriteEffect (die : Nat) (s : State) : Host.Outcome State Fault Refusal :=
  onDev s fun d => indTake d die .other

/- Direct registers with no row of their own (R14, R580, R592). -/

/-- A word of the MSI-X table: address, data and the mask bit of a vector (R580, R592). -/
def msixWrite (d : Dev) (n : Nat) (fn : Fn) (off v : Nat) : Dev :=
  let k := off / 16
  let w := vecOf (dieOf d n) fn k
  let put := fun w => onDie d n fun x => setVec x fn k w
  match off % 16 with
  | 0 => put { w with addr := w.addr / two32 * two32 + v }
  | 4 => put { w with addr := v * two32 + w.addr % two32 }
  | 8 => put { w with data := v }
  | _ =>
    let d := put { w with masked := bitOf v 0 }
    if w.due && !bitOf v 0 then sendVec d n fn k else d

def coalWrite (d : Dev) (n : Nat) (fn : Fn) (k v : Nat) : Dev :=
  onDie d n fun x => setVec x fn k { vecOf x fn k with time := bitsOf v 16 16, count := bitsOf v 0 8 }

/-- PF0 registers outside d0's guard block. -/
def pf0Write (d : Dev) (n off v : Nat) : Dev :=
  if off = 0x1A4 then onDie d n fun x => { x with rings := x.rings.mapIdx fun k r =>
    { r with full := writeOneClear r.full r.fullAt d.now (bitOf v k) } }
  else if off = 0x200 then onDie d n fun x => { x with cause := x.cause &&& (~~~(BitVec.ofNat 14 v) ||| freshCauses d n) }
  else if off = 0x204 then onDie d n fun x =>
    let m := BitVec.ofNat 14 (bitsOf v 16 14)
    { x with intEn := (x.intEn &&& ~~~m) ||| (BitVec.ofNat 14 v &&& m) }
  else if off = 0x208 then onDie d n fun x => { x with directVec := bitsOf v 0 5 }
  else if 0x280 ≤ off ∧ off < 0x300 then coalWrite d n .pf0 ((off - 0x280) / 4) v
  else if off = 0x600 then settleInd (onDie d n fun x => { x with indQ := x.indQ ++ [.addr v] }) n
  else if off = 0x608 then settleInd (onDie d n fun x => { x with indQ := x.indQ ++ [.ctrl v] }) n
  else if 0x8000 ≤ off ∧ off < 0x8200 then msixWrite d n .pf0 (off - 0x8000) v
  else d

def pRingOf (x : Die) (r : PRing) : PuntRing := kget x.pRings r {}

def onPRing (d : Dev) (n : Nat) (r : PRing) (f : PuntRing → PuntRing) : Dev :=
  onDie d n fun x => { x with pRings := kput x.pRings r (f (pRingOf x r)) }

/-- OVERRUN of a punt or tap ring block clears when 1 is written to it (R592). -/
def overrunWrite (d : Dev) (n : Nat) (r : PRing) (v : Nat) : Dev :=
  onPRing d n r fun k => { k with overrun := writeOneClear k.overrun k.overrunAt d.now (bitOf v 1) }

def fnWrite (d : Dev) (n : Nat) (fn : Fn) (off v : Nat) : Dev :=
  match fn with
  | .pf0 => pf0Write d n off v
  | .pf1 =>
    if off < 0x400 then (if off % 64 = 0x10 then overrunWrite d n (.punt (off / 64)) v else d)
    else if 0x800 ≤ off ∧ off < 0x840 then coalWrite d n .pf1 ((off - 0x800) / 4) v
    else if 0x2000 ≤ off ∧ off < 0x2100 then msixWrite d n .pf1 (off - 0x2000) v
    else d
  | .vf k =>
    if off = 0x10 then overrunWrite d n (.tap k) v
    else if off = 0x40 then coalWrite d n (.vf k) 0 v
    else if 0x800 ≤ off ∧ off < 0x810 then msixWrite d n (.vf k) (off - 0x800) v
    else d

/- The armed sequence of the guard (R596, R597). -/

/-- The AON cycle of a time: 40 ns each (R596). -/
def aonCycle (t : Nat) : Nat := t / 500

/-- A failed sequence or an ignored direct write (R580). -/
def addFail (a : Aon) : Aon := { a with fails := (a.fails + 1) % two16 }

/-- A sequence fails in AON cycle `t`: FAIL is set, FAILS rises, and nothing is armed (R596). -/
def failGuard (a : Aon) (t : Nat) : Aon := { addFail a with failF := true, failAt := some t, armed := none }

/-- An armed sequence has reached cycle a + 64 (R596, R597). -/
def guardOver (s : State) : Bool := s.aon.armed.any fun x => decide (aonCycle s.dev.now ≥ aonCycle x.2.2 + 64)

/-- The sequence that has reached its end, in cycle a + 64, is disarmed before anything else is judged (R597). -/
def lapse (s : State) : Aon :=
  match s.aon.armed with
  | some x => if guardOver s then failGuard s.aon (aonCycle x.2.2 + 64) else s.aon
  | none => s.aon

/-- GUARD_SEL and GUARD_STAT of d0, written in AON cycle `t`: a bit that hardware sets in that cycle stays set (R17,
R580). -/
def guardRegWrite (a : Aon) (t off v : Nat) : Aon :=
  if off = 0x304 then { a with sel := bitsOf v 0 4 }
  else if off = 0x310 then
    { a with
      lockedF := writeOneClear a.lockedF a.lockedAt t (bitOf v 3)
      failF := writeOneClear a.failF a.failAt t (bitOf v 2)
      doneF := writeOneClear a.doneF a.doneAt t (bitOf v 1) }
  else a

/-- A write to a direct register with no row of its own, under its access codes; a write without all byte enables, or of
an offset that is not assigned, is ignored (R14, R578). -/
def execRegisterWrite (die : Nat) (fn : Fn) (offset : Nat) (value : Word) (byteEnables : BitVec 4) (s : State) :
    Host.Outcome State Fault Refusal :=
  if !fnUp s.dev die fn || byteEnables != 15 || offset % 4 != 0 then .next s
  else .next { s with
    aon := if die = 0 ∧ fn = .pf0 then guardRegWrite (lapse s) (aonCycle s.dev.now) offset value.toNat else s.aon
    dev := fnWrite s.dev die fn offset value.toNat }

/- Punt and tap rings (R593). -/

/-- A write of a pool tail: refused with OVERRUN when it overfills the free ring (R593). -/
def execPoolTailWrite (die : Nat) (ring : PRing) (pool : Nat) (value : Word) (s : State) :
    Host.Outcome State Fault Refusal :=
  onDev s fun d =>
    let k := pRingOf (dieOf d die) ring
    if !fnUp d die (ringFn ring) || !decide (pool < 3) then d
    else if (value.toNat + two32 - k.taken.getD pool 0) % two32 > 2 ^ k.log2 then
      onPRing d die ring fun k => { k with
        overrun := true
        overrunAt := some d.now }
    else onPRing d die ring fun k => { k with tail := k.tail.set pool value.toNat }

/-- A write of CPL_CONS: refused with OVERRUN when it passes CPL_WRITE (R593). -/
def execCplConsWrite (die : Nat) (ring : PRing) (value : Word) (s : State) : Host.Outcome State Fault Refusal :=
  onDev s fun d =>
    let k := pRingOf (dieOf d die) ring
    if !fnUp d die (ringFn ring) then d
    else if (value.toNat + two32 - k.cons) % two32 > (k.write + two32 - k.cons) % two32 then
      onPRing d die ring fun k => { k with
        overrun := true
        overrunAt := some d.now }
    else onPRing d die ring fun k => { k with cons := value.toNat }

/- MSI-X (R589). -/

/-- A vector is unmasked and its waiting message goes (R589). -/
def execMsixVectorUnmask (die : Nat) (fn : Fn) (vec : Nat) (s : State) : Host.Outcome State Fault Refusal :=
  onDev s fun d =>
    if !fnUp d die fn then d
    else
      let w := vecOf (dieOf d die) fn vec
      let d := onDie d die fun x => setVec x fn vec { w with masked := false }
      if w.due then sendVec d die fn vec else d

/-- TIME after P rose from 0, or 1 µs after the last message, the vector's message goes (R589). -/
def execMsixCoalesceTimeout (die : Nat) (fn : Fn) (vec : Nat) (s : State) : Host.Outcome State Fault Refusal :=
  onDev s fun d =>
    let w := vecOf (dieOf d die) fn vec
    if alive d die && ((decide (w.p > 0) && expired d w.since (w.time * us)) || w.due) then sendVec d die fn vec else d

/- Function-level resets (R579, R238). -/

/-- Every ring of PF0 of a die is disabled (R579). -/
def disableRings (d : Dev) (n : Nat) : Dev :=
  let d := (List.range 8).foldl (fun d k => disableRing d n k (ringOf d n k).vector) d
  disableEvt d n (dieOf d n).evt.vector

/-- INT_CAUSE, INT_MASK, INT_VEC and every INT_COAL_v of PF0 at their reset values (R579). -/
def resetInterrupts (x : Die) : Die :=
  { x with cause := 0, intEn := 0, directVec := 31, vecs := x.vecs.map fun e =>
    if e.1 = .pf0 then (e.1, e.2.1, { e.2.2 with time := 0, count := 1 }) else e }

/-- A punt or tap ring is disabled (R238). -/
def disablePRings (x : Die) (f : PRing → Bool) : Die :=
  { x with pRings := x.pRings.map fun e => if f e.1 then (e.1, { e.2 with enable := false }) else e }

/-- Function-level reset of PF0 (R579). -/
def execPf0Flr (die : Nat) (s : State) : Host.Outcome State Fault Refusal :=
  onDev s fun d => if regsUp d die then onDie (disableRings d die) die resetInterrupts else d

/-- Function-level reset of PF1 or of a VF disables that function's rings (R579, R238). -/
def execPf1VfFlr (die : Nat) (fn : Fn) (s : State) : Host.Outcome State Fault Refusal :=
  onDev s fun d => if !regsUp d die then d else onDie d die fun x => disablePRings x fun r => match fn, r with
    | .pf1, .punt _ => true
    | .vf k, .tap j => k == j
    | _, _ => false

end Sys2Proof.Machine
end

