-- ==== Sys2Proof/Machine/Store.lean ====
section
/-! DEFINITION. The deep store of a die (R360 to R373, R610, R611): packing and writing pages, reading them back, and the
flush of a VOQ. -/

namespace Sys2Proof.Machine

/-- Drop one frame or copy of a VOQ under a reason: a unicast frame, a mirror copy, or one copy of a multicast frame, with which
the operations of a whole frame are charged, if no other has been (R353, R372, R388, R464, R610). -/
def dropItem (d : Dev) (q : VoqKey) (t : VItem) (reason : Nat) : Dev :=
  let f := frameOf d t.fid
  if t.aborted then d
  else if f.kind != .received then dropCopyFrame d f reason
  else if q.mc && !t.slow then
    let d := countDrop d f.die (some f.port) (dropTenant f) reason (sizeOf' f)
    if wholeFrame f then feedEnergy d f.die f 0 else d
  else badFrame d f.id reason 5

/-- Mark a frame of a VOQ ABORTED. -/
def abortItem (d : Dev) (q : VoqKey) (i : Nat) : Dev :=
  let mark := fun t : VItem => if t.fid = i then { t with aborted := true } else t
  settleVoq (onVoq d q fun v => { v with head := v.head.map mark, mid := v.mid.map mark, tail := v.tail.map mark }) q

/-- A VOQ is flushed: its BALANCE returns, its frames in the comb are dropped, and those in pages will be dropped as
they are read back (R372, R388). -/
def flushVoq (d : Dev) (q : VoqKey) (reason : Nat) : Dev :=
  let v := voqOf d q
  let gone := v.head ++ v.tail
  let d := clearPacked (gone.foldl (fun d t => dropItem d q t reason) (returnBalance d q)) q
  let d := onVoq d q fun v => { v with
    head := []
    tail := []
    mid := v.mid.map fun t => { t with flush := some (t.flush.getD reason) }
    emptyAt := d.now }
  settleVoq (gone.foldl (fun d t => settle d t.fid) d) q

/- Writing pages (R363 to R365). -/

/-- The first of the frames that STORE_QUOTA refuses when the packer judges them in order, those before it being
admitted (R364). `acc` holds the cells already admitted here for each tenant. -/
def firstRefused (d : Dev) (n : Nat) : List VItem → List (Nat × Nat) → Option VItem
  | [], _ => none
  | t :: r, acc =>
    let f := frameOf d t.fid
    match storePayer f with
    | none => firstRefused d n r acc
    | some ten =>
      let x := dieOf d n
      let quota := (tenantOf x.tab ten).store
      let sum := kget x.storeUse ten 0 + kget x.packing ten 0 + kget acc ten 0 + f.chain.length
      if quota == noLimit || decide (sum ≤ quota) then firstRefused d n r (kput acc ten (kget acc ten 0 + f.chain.length))
      else some t

/-- The packer admits a frame: it leaves TAIL for the middle with all of its cells to be packed (R364). -/
def packFrame (d : Dev) (q : VoqKey) (t : VItem) : Dev :=
  let f := frameOf d t.fid
  let d := onVoq d q fun v => { v with
    tail := v.tail.filter fun u => u.fid != t.fid
    mid := v.mid ++ [t]
    packed := v.packed ++ [(t.fid, f.chain.length)] }
  match storePayer f with
  | some ten => onDie d q.die fun x => { x with packing := kput x.packing ten (kget x.packing ten 0 + f.chain.length) }
  | none => d

/-- STORE_QUOTA refuses a spill of a frame's cells: the whole frame is dropped, its copies for other dies too, and its
cells return (R181, R364). -/
def refuseSpill (d : Dev) (t : VItem) : Dev :=
  let f := frameOf d t.fid
  if t.aborted then d
  else if f.kind != .received then dropCopyFrame d f drQuota
  else badFrame d f.id drQuota 5

/-- The packer meets a frame that it returns: it leaves TAIL (R353, R364). -/
def unpackItem (d : Dev) (q : VoqKey) (t : VItem) : Dev :=
  settle (onVoq d q fun v => { v with tail := v.tail.filter fun u => u.fid != t.fid }) t.fid

/-- The packer readies the next page of a VOQ: it returns ABORTED frames and frames that STORE_QUOTA refuses, and admits
the frames that the page takes cells of. The answer is whether a page of 16 cells is ready (R353, R363, R364). -/
def packPage (q : VoqKey) : Nat → Dev → Bool × Dev
  | 0, d => (false, d)
  | fuel + 1, d =>
    let v := voqOf d q
    match pageFrames d (16 - (packedCells d v).length) v.tail with
    | none => (false, d)
    | some l => match firstRefused d q.die l [] with
      | some t => packPage q fuel (unpackItem (refuseSpill d t) q t)
      | none =>
        let met := (v.tail.reverse.dropWhile fun t => !l.any fun u => u.fid == t.fid).filter (·.aborted)
        (true, l.foldl (fun d t => packFrame d q t) (met.foldl (fun d t => unpackItem d q t) d))

/-- The lowest free page of a die (R360). -/
def lowestPage (x : Die) : Option Nat :=
  if freePages x = 0 then none
  else (List.range (x.pagesUsed.length + x.pagesRetired.length + 1)).find? fun p =>
    !x.pagesUsed.contains p && !x.pagesRetired.contains p

/-- Take the first 16 of the packer's cells off its list. -/
def dropPacked : Nat → List (Nat × Nat) → List (Nat × Nat)
  | _, [] => []
  | k, (i, n) :: r => if n ≤ k then dropPacked (k - n) r else (i, n - k) :: r

/-- EV_STORE_FULL when a die's free pages have just reached 0, at most once a second (R373). -/
def noteStoreFull (old d : Dev) (n : Nat) : Dev :=
  if freePages (dieOf old n) != 0 && freePages (dieOf d n) = 0 && mayRaise d (dieOf d n).fullAt sec then
    raise (onDie d n fun x => { x with fullAt := some d.now }) n evStoreFull []
  else d

/-- The write of a ready page starts (R365, R373). -/
def startWrite (d : Dev) (q : VoqKey) (p : Nat) : Dev :=
  let page : Page := { idx := p, st := .writing, cells := (packedCells d (voqOf d q)).take 16, since := d.now }
  let d := onVoq d q fun v => { v with pages := v.pages ++ [page], packed := dropPacked 16 v.packed, waited := false, readyAt := none }
  let d := noteReady d q
  noteStoreFull d (onDie d q.die fun x => { x with pagesUsed := p :: x.pagesUsed, writeAt := d.now, writeRot := some q }) q.die

/-- The write ceiling lets no page write of the die start at time `t` (R365). -/
def writeCeiling (x : Die) (t : Nat) : Bool := x.writeAt != 0 && decide (t < x.writeAt + 256)

/-- The page that starts now became ready while the ceiling was closed and was not yet counted (R365). -/
def countStart (d : Dev) (q : VoqKey) : Dev :=
  if (voqOf d q).waited || !((voqOf d q).readyAt.any fun t => decide (t < d.now) && writeCeiling (dieOf d q.die) t) then d
  else bumpDie (onVoq d q fun v => { v with waited := true }) q.die cntSpillWait 1

/-- Ready pages that wait for the ceiling are counted, each once (R365). -/
def countWaits (d : Dev) (n : Nat) : Dev :=
  ((voqsOf d n).filter fun q => pageReady d q && !(voqOf d q).waited).foldl (fun d q =>
    bumpDie (onVoq d q fun v => { v with waited := true }) n cntSpillWait 1) d

/-- The deep store of a die is ON: the die is not parked, and its wake from SELF_REFRESH is over (R481, R489). -/
def storeOn (d : Dev) (n : Nat) : Bool := !(dieOf d n).parked && decide ((dieOf d n).storeFrom ≤ d.now)

/-- PAGE_WRITE_START: the next VOQ in rotation with a page ready has it packed and its write started, at most one in 16
grain ticks (R363 to R365). -/
def execPageWriteStart (die : Nat) (s : State) : Host.Outcome State Fault Refusal :=
  onDev s fun d =>
    if !alive d die || !storeOn d die then d
    else if writeCeiling (dieOf d die) d.now then countWaits d die
    else match (rotateAfter (voqsOf d die) fun q => some q == (dieOf d die).writeRot).find? (pageReady d), lowestPage (dieOf d die) with
      | some q, some p =>
        let r := packPage q ((voqOf d q).tail.length + 1) (countStart d q)
        countWaits (if r.1 then startWrite r.2 q p
          else settleVoq (onVoq r.2 q fun v => { v with waited := false, readyAt := none }) q) die
      | _, _ => d

/-- The page of a die in a transfer of the kind that started first, with its VOQ. -/
def firstPage (d : Dev) (n : Nat) (st : PageSt) : Option (VoqKey × Page) :=
  let l := (d.voqs.filter fun e => e.1.die == n).flatMap fun e => (e.2.pages.filter (·.st == st)).map fun p => (e.1, p)
  match minOff (l.map (·.2.since)) with
  | none => none
  | some t => l.find? fun e => e.2.since == t

/-- A written page other than page `p` of VOQ `q` holds the cell: another copy of a multicast frame has spilled it. -/
def storedElse (d : Dev) (q : VoqKey) (p : Nat) (c : Nat × Nat) : Bool :=
  d.voqs.any fun e => e.2.pages.any fun g => g.st != .writing && !(e.1 == q && g.idx == p) && g.cells.contains c

/-- A cell of a frame that has been charged moves out of COMB_USE, or back into it (R364, R367). -/
def moveComb (d : Dev) (f : Frame) (k : Int) : Dev := match storePayer f, f.charged with
  | some t, some (v, _, _) => decidePause (chargeComb d f.die v t k) f.port
  | _, _ => d

/-- A cell of a page has been written: its charge moves to STORE_USE, from COMB_USE with the first page that holds it, and it
leaves the comb; a cell of a multicast chain that other copies read from the comb stays for them (R41, R363, R364). -/
def cellStored (d : Dev) (q : VoqKey) (p : Nat) (c : Nat × Nat) : Dev :=
  let f := frameOf d c.1
  let d := if storedElse d q p c then d else moveComb d f (-1)
  let d := onFrame d c.1 fun f => { f with spilled := f.spilled + 1 }
  let d := match storePayer f with
    | some t => chargeStore (onDie d q.die fun x => { x with packing := kput x.packing t (kget x.packing t 0 - 1) }) q.die t 1
    | none => d
  if combNeeded d q c.1 c then d else vacate d c.1 p c

def onPage (d : Dev) (q : VoqKey) (p : Nat) (f : Page → Page) : Dev :=
  onVoq d q fun v => { v with pages := v.pages.map fun x => if x.idx = p then f x else x }

/-- PAGE_WRITE_DONE: the page write of the die that started first completes (R363). -/
def execPageWriteDone (die : Nat) (s : State) : Host.Outcome State Fault Refusal :=
  onDev s fun d =>
    if !alive d die then d
    else match firstPage d die .writing with
      | none => d
      | some (q, p) =>
        let d := onPage d q p.idx fun p => { p with st := .stored }
        bumpDie (p.cells.foldl (fun d c => cellStored d q p.idx c) d) die cntSpillPages 1

/- Reading pages (R366, R367, R372, R610). -/

/-- READBACK_START: the read of the pending page starts once its 16 cells are granted, at most one in 16 grain ticks
(R366). -/
def execReadbackStart (die : Nat) (s : State) : Host.Outcome State Fault Refusal :=
  onDev s fun d =>
    match (combOf d die).readWait with
    | none => d
    | some (q, p, l) =>
      let x := dieOf d die
      if !alive d die || !storeOn d die || l.length < 16 || (x.readAt ≠ 0 && !expired d x.readAt 256) then d
      else
        onPage (onDie d die fun x => { x with readAt := d.now, comb := { x.comb with readWait := none } }) q p fun p =>
          { p with st := .reading, into := l, since := d.now }

/-- A cell of page `p` has been read back into comb cell `k`: it joins its chain and its charge returns to COMB_USE, unless
another page still holds it; the cell granted for a copy that still has its comb cell returns at once (R367). -/
def cellRead (d : Dev) (q : VoqKey) (p : Nat) (c : Nat × Nat) (k : Nat) : Dev :=
  let f := frameOf d c.1
  let d := if storedElse d q p c then d else moveComb d f 1
  let d := onFrame d c.1 fun f => { f with readBack := f.readBack + 1 }
  let d := match storePayer f with
    | some t => chargeStore d q.die t (-1)
    | none => d
  match f.chain[c.2]? with
  | some (.page _) =>
    onFrame d c.1 fun f => { f with chain := lmod f.chain c.2 fun _ => .cell k }
  | _ => returnCells q.die [k] d

/-- A frame of a page that was read is dropped for the flush of its VOQ, or for an uncorrectable page (R372, R610). -/
def readDrop (d : Dev) (q : VoqKey) (ue : Bool) (i : Nat) : Dev :=
  match (voqOf d q).mid.find? fun t => t.fid == i with
  | none => d
  | some t =>
    match t.flush.orElse fun _ => if ue then some drUeStore else none with
    | some r => abortItem (dropItem d q t r) q i
    | none => d

/-- Frames of the middle that are back: at its front they join HEAD in order, and ABORTED ones are returned wherever
they stand (R367, R371, R372). -/
def settleMid (d : Dev) (q : VoqKey) : Dev :=
  let v := voqOf d q
  let back := fun t : VItem => inPages v t.fid == 0 && kget v.packed t.fid 0 == 0
  let gone := v.mid.filter fun t => t.aborted && back t
  let left := v.mid.filter fun t => !(t.aborted && back t)
  let d := onVoq d q fun v => { v with head := v.head ++ left.takeWhile back, mid := left.dropWhile back }
  settleVoq (gone.foldl (fun d t => settle d t.fid) d) q

/-- The page read of VOQ `q` into the comb completes; `ue` says that the stack returned an uncorrectable word (R367,
R610). -/
def finishRead (d : Dev) (die : Nat) (q : VoqKey) (p : Page) (ue : Bool) : Dev :=
  let d := (p.cells.zip p.into).foldl (fun d e => cellRead d q p.idx e.1 e.2) d
  let d := onVoq d q fun v => { v with pages := v.pages.filter fun x => x.idx != p.idx }
  let d := onDie d die fun x => { x with pagesUsed := x.pagesUsed.filter (· != p.idx) }
  let d := bumpDie d die cntReadbackPages 1
  settleMid ((p.cells.map (·.1)).eraseDups.foldl (fun d i => readDrop d q ue i) d) q

end Sys2Proof.Machine
end

