-- ==== Sys2Proof/Machine/Slow.lean ====
section
/-! DEFINITION. The end of the slow path: punt rings, tap rings and the Keeper (R226 to R233, R314 to R316, R620). -/

namespace Sys2Proof.Machine

/-- Buffer sizes of the three pools (R227). -/
def poolSizes : List Nat := [256, 2048, 9728]

/-- Free buffers of pool `k` of a ring (R593). -/
def poolFree (r : PuntRing) (k : Nat) : Nat := (r.tail.getD k 0 + two32 - r.taken.getD k 0) % two32

/-- The completion ring has a free entry (R228). -/
def cplFree (r : PuntRing) : Bool := decide ((r.write + two32 - r.cons) % two32 < 2 ^ r.log2)

/-- The pool that takes a frame of `l` bytes: the smallest fitting one with a free buffer (R228). -/
def fitPool (r : PuntRing) (l : Nat) : Option Nat :=
  if !r.enable || !cplFree r then none
  else (List.range 3).find? fun k => decide (l ≤ poolSizes.getD k 0) && decide (poolFree r k > 0)

/-- What a completion of a punt or tap ring reports (R229, R316). -/
structure SlowCpl where
  reason : Nat
  port : Nat
  ve : Nat
  tenant : Nat
  rule : Nat
  time : Nat
  tail : Nat

/-- Write a frame and its completion: the 16-byte free-ring entry gives the buffer and its cookie (R227 to R230, R591). -/
def writeSlow (d : Dev) (n : Nat) (key : PRing) (k : Nat) (f : Frame) (entry : BitVec 128) (c : SlowCpl) : Dev :=
  let r := pRingOf (dieOf d n) key
  let l := sizeOf' f
  let phase := if (r.write / 2 ^ r.log2) % 2 = 0 then 1 else 0
  let d := hostWrite d n (ringFn key) (entry.toNat % two64) (f.bytes.take l)
  let d := hostWrite d n (ringFn key) (r.cplBase + 32 * (r.write % 2 ^ r.log2))
    (leBytes 8 (entry.toNat / two64) ++ leBytes 2 l ++ leBytes 1 k ++ leBytes 1 c.reason ++ leBytes 2 c.port ++ leBytes 2 c.ve
      ++ leBytes 2 c.tenant ++ leBytes 2 c.rule ++ leBytes 2 f.parsed.pflags ++ leBytes 1 phase ++ leBytes 1 0
      ++ leBytes 4 c.time ++ leBytes 4 c.tail)
  let d := onPRing d n key fun r => { r with write := (r.write + 1) % two32, taken := lmod r.taken k fun t => (t + 1) % two32 }
  match key with
  | .punt v => pulseVec d n .pf1 v
  | .tap v => pulseVec d n (.vf v) 0

/-- The slow path has finished with a frame or copy on die `n`: the chain that crossed and the ingress chain return
(R226, R351). -/
def slowDone (d : Dev) (n i : Nat) : Dev :=
  settle (settleChain (onChain d n i fun m => if m.slow then { m with begun := true, ended := true, left := [] } else m) n i) i

/-- Drop a frame or copy that waited for a ring of die `n`. -/
def dropSlow (d : Dev) (n : Nat) (f : Frame) (reason : Nat) : Dev :=
  slowDone (if f.kind = .received then dropFrameOn d n f.id reason else dropCopyOn d n f reason) n f.id

/-- What a punt completion reports of a frame (R229). The class is the one after a rule's replacement (DESIGN CHOICE, log
58). -/
def puntCpl (f : Frame) (reason : Nat) : SlowCpl :=
  { reason := reason, port := f.port, ve := f.ve, tenant := f.src.tenant + f.tc * 1024, rule := f.rule.getD 0x8000,
    time := f.rxNs.getD f.src.domain 0 % two32, tail := 0 }

/-- Frame `g` has arrived before frame `f`, and is or may yet be bound for punt ring `r` of die `h` without waiting there yet:
it has not been classified, the Keeper holds it, or it crosses to the die (R230). -/
def comesFirst (d : Dev) (h r : Nat) (f g : Frame) : Bool :=
  g.good && !g.dropped && decide (g.endAt < f.endAt) && alive d g.die && puntHome d g.die == h
    && !(dieOf d h).puntQ.contains g.id
    && (g.stage == .ingress || (g.stage == .slow && (g.toKeeper || g.punt.any (·.1 == r))))

/-- PUNT_DELIVERY: the first frame waiting for a punt ring of the die is written, with `entry` as the free-ring entry
that the device takes, or dropped as DR_PUNT_FULL (R228, R620); a frame dropped meanwhile is discarded (R353). It waits for
frames bound for the ring that arrived before it (R230). -/
def execPuntDelivery (die : Nat) (entry : BitVec 128) (s : State) : Host.Outcome State Fault Refusal :=
  onDev s fun d =>
    let x := dieOf d die
    match x.puntQ with
    | [] => d
    | i :: rest =>
      let f := frameOf d i
      let p := f.punt.getD (0, 0)
      let r := pRingOf x (.punt p.1)
      let pool := if x.halted.contains 2 then none else fitPool r (sizeOf' f)
      if f.dropped && alive d die then slowDone (onDie d die fun x => { x with puntQ := rest }) die i
      else if !alive d die || (pool.isSome && !x.pcieUp) || d.frames.any (comesFirst d die p.1 f) then d
      else
        let d := onDie d die fun x => { x with puntQ := rest }
        match pool with
        | none => dropSlow d die f drPuntFull
        | some k => slowDone (writeSlow d die (.punt p.1) k f entry (puntCpl f p.2)) die i

/-- TAP_DELIVERY: the first copy waiting for a tap ring of the die is written, or dropped for its tenant, for lack of
room, or because the die has no VFs (R315, R316, R577, R620). -/
def execTapDelivery (die : Nat) (entry : BitVec 128) (s : State) : Host.Outcome State Fault Refusal :=
  onDev s fun d =>
    let x := dieOf d die
    match x.tapQ with
    | [] => d
    | i :: rest =>
      let f := frameOf d i
      let key := PRing.tap f.mirSes.tapVf
      let r := pRingOf x key
      let pool := if x.halted.contains 3 || !vfsUp x then none else fitPool r (sizeOf' f)
      if f.dropped && alive d die then slowDone (onDie d die fun x => { x with tapQ := rest }) die i
      else if !alive d die || (r.tenant == f.mirTen && vfsUp x && pool.isSome && !x.pcieUp) then d
      else
        let d := onDie d die fun x => { x with tapQ := rest }
        if r.tenant ≠ f.mirTen && vfsUp x then dropSlow d die f drTapTenant
        else match pool with
          | none => dropSlow d die f drTapFull
          | some k =>
            let se := match f.kind with
              | .mirror s e => (s, e)
              | _ => (0, false)
            let d := writeSlow d die key k f entry
              { reason := if se.2 then 9 else 8, port := f.mirPort, ve := f.mirVe, tenant := f.mirTen + f.mirTc * 1024, rule := se.1,
                time := f.rxNs.getD f.src.domain 0 % two32, tail := f.origLen.getD 0 }
            let d := bump d die (slotMirror se.1 1) f.mirSize
            let d := match dropTenant f with
              | some t => bump d die (slotTenant t cntTenMirBytes) f.mirSize
              | none => d
            slowDone d die i

/-- The Keeper forwards a frame: it is the final dequeue of the frame's chain, which returns with its charge, and the frame
goes on in cells that the Keeper takes for it and that belong to no tenant (R177, R226, R343, R351). -/
def takeOver (d : Dev) (i : Nat) : Dev :=
  let f := frameOf d i
  let k := cellCount (sizeOf' f)
  let d := onFrame (releaseChain d f) i fun f =>
    { f with stage := .step8, toKeeper := false, owner := none, byKeeper := true, chain := [], paid := 0, asked := k }
  onComb d f.die fun b => { b with requests := b.requests ++ [(4, i, k)] }

/-- A port belongs to the boundary clock of domain `k` (R516). -/
def bcPort (d : Dev) (k p : Nat) : Bool := isPort d p && (portOf d p).set.bcEn && (portOf d p).set.bcDomain == k

/-- Offset of the PTP message of a frame outside any tunnel: over Ethernet, or over UDP port 319 or 320 (R512). -/
def ptpAt (f : Frame) : Option Nat :=
  let o := f.parsed.l3
  let udp := if f.parsed.ktype = 1 && byteAt f.bytes (o + 9) = 17 then some (o + 4 * (byteAt f.bytes o % 16))
    else if f.parsed.ktype = 2 && byteAt f.bytes (o + 6) = 17 then some (o + 40) else none
  if be f.bytes 12 2 = 0x88F7 then some 14
  else (udp.filter fun u => let p := be f.bytes (u + 2) 2
    p == 319 || p == 320).map (· + 8)

/-- A frame that the Keeper holds is a message for the boundary clock of domain `k`: it came on a port of that clock with its
PTP domainNumber (R516; DESIGN CHOICE, log 61). -/
def clockFrame (d : Dev) (k i : Nat) : Bool :=
  let f := frameOf d i
  bcPort d k f.port && (ptpAt f).any fun o => byteAt f.bytes (o + 4) == (portOf d f.port).set.ptpDomain

/-- KEEPER_FORWARD: the Keeper of a die takes its oldest frame that is no message for a boundary clock, classifies it again and
acts on the second match (R226, R232, R233, R516). A frame that it punts because no rule matched reports the rule of its first match, if that had one
(DESIGN CHOICE, log 58). -/
def execKeeperForward (die : Nat) (s : State) : Host.Outcome State Fault Refusal :=
  onDev s fun d =>
    let x := dieOf d die
    match x.keeperQ.find? fun i => !clockFrame d (portOf d (frameOf d i).port).set.bcDomain i with
    | none => d
    | some i =>
      let rest := x.keeperQ.filter (· != i)
      if !alive d die || x.keeper != .running then d
      else if (frameOf d i).dropped then slowDone (onDie d die fun x => { x with keeperQ := rest }) die i
      else
        let d := onDie d die fun x => { x with keeperQ := rest }
        let f := frameOf d i
        settle (match classify x (sliceOfPort f.port) f.parsed.key with
          | none =>
            let a := missAction f
            match a % 8 with
            | 1 => dropFrame d i drClsDeny
            | 2 => goSlow d i false (a / 16) 5 true
            | _ => step5 (takeOver d i) i
          | some (idx, r) =>
            let d := applyRule d i idx r.action
            match actDisp r.action with
            | 1 => dropFrame d i drClsDeny
            | 2 => resolveVe (takeOver d i) i (actVe r.action)
            | 3 => goSlow d i false (actRing r.action) 6 true
            | 5 => step5 (takeOver (copyToHost d i (actRing r.action)) i) i
            | _ => step5 (takeOver d i) i) i

end Sys2Proof.Machine
end

