-- ==== Sys2Proof/Machine/Links.lean ====
section
/-! DEFINITION. Link states of ports: going down and coming up, link transitions and the smoker, and the start of bring-up
(R57, R62, R70, R72, R84 to R88, R91, R388, R732). -/

namespace Sys2Proof.Machine

def linkCode : Link → Nat
  | .down => 0
  | .seek => 1
  | .stepping => 2
  | .up => 3
  | .quarantine => 4
  | .test => 5
  | .disabled => 6

/-- The rate code or PHY type that a port reports: in test mode that of the test, else the PHY type of an Ethernet port or
the rate code that the lanes run at (R85, R91, R93, R572). -/
def rateShown (q : Port) : Nat := if q.link = .test then q.testRate else if q.conf.mode = 2 then q.conf.rate else laneRate q

/-- The port is in L2, DOWN or disabled (R485). -/
def isResting (q : Port) : Bool := q.power == .l2 || q.link == .down || q.link == .disabled

/-- LINK changes: each change raises one EV_PORT_LINK (R91). When the peer link goes DOWN, the standby becomes STALE
(R650). -/
def setLink (d : Dev) (p : Nat) (l : Link) : Dev :=
  if (portOf d p).link = l then d
  else
    let d := if isPeerPort d p && (portOf d p).link == .up then becomeStale d 8 else d
    let d := onPort d p fun q => { q with
      link := l
      restAt := if isResting q then q.restAt else d.now }
    raise d (dieOfPort p) evPortLink (leBytes 2 p ++ leBytes 1 (linkCode l) ++ leBytes 1 (rateShown (portOf d p)))

/-- What a port holds and sends is dropped under a reason: its VOQs are flushed, copies on its die are dropped, one in
transmission included (R85, R388). -/
def flushPort (d : Dev) (p reason : Nat) : Dev :=
  let d := ((d.voqs.filter fun e => !e.1.mc && e.1.target == p).map (·.1)).foldl (fun d q => flushVoq d q reason) d
  let d := (d.copies.filter fun c => c.port == p && c.arrived).foldl (fun d c => dropCopy d c reason) d
  onPort d p fun q => { q with tx := none }

/-- Pause states in both directions, stall timers and PAUSE_IGNORE periods are cleared (R732). -/
def clearFlow (d : Dev) (p : Nat) : Dev :=
  onPort d p fun q => { q with
    rxPaused := []
    pausedAt := []
    rxXoff := []
    xoffAt := []
    txPaused := 0
    txXoff := []
    stall := []
    veStall := []
    ignore := []
    veIgnore := []
    owed := [] }

/-- A port goes out of service: the frame it is receiving is broken off, what waits for it is dropped, and its flow
control is cleared. It counts as out of service from the first of this, so that no message goes out on it (R118, R388,
R404, R732). -/
def takeDown (d : Dev) (p reason : Nat) : Dev :=
  let link := (portOf d p).link
  let d := onPort (clearFlow d p) p fun q => { q with link := .down }
  let d := onPort (clearFlow (flushPort (setRx (breakFrame d p) p .out none) p reason) p) p fun q => { q with link := link }
  let d := if isPeerPort d p then { d with ha := { d.ha with q7 := [], q6 := [], inbox := [] } } else d
  onPort d p fun q => { q with
    roleSeen := false
    farQuiet := 0
    quiet := 0
    roleLeft := 0
    l2Ask := none
    wakeAt := none
    phase := .idle
    ethPhase := .idle }

/- Bring-up starts (R53, R57, R58). -/

/-- A port may run: not on a parked die, in package stop or in reset, and in thermal stop only the peer link (R489, R706,
R721). -/
def portsRun (d : Dev) (p : Nat) : Bool :=
  let n := dieOfPort p
  alive d n && !(dieOf d n).parked && (!d.thermal || isPeerPort d p) && d.run == .running

/-- Forget what the lanes of a port have received and locked to; the taps return to the preset of the attempt's rate
(R684). -/
def clearLanes (d : Dev) (p : Nat) : Dev :=
  (portLanes d p).foldl (fun d l =>
    let z := presetOf d l (portOf d p).attRate
    onLane d l fun x => { x with
    blockLock := false
    cwLock := false
    cwBad := 0
    cwGood := 0
    cwOffset := 0
    resume := none
    rxScrN := 0
    ask := none
    badRows := []
    helloAt := none
    hello := 0
    helloRun := 0
    reqRun := 0
    coefReq := none
    coefStatus := 0
    tapPre := z.1
    tapMain := z.2.1
    tapPost := z.2.2 }) d

/-- An attempt begins at a rate code: `ph` is its first phase (R57, R58). -/
def startAttempt (d : Dev) (p : Nat) (a : Attempt) (rate : Nat) (ph : Phase) : Dev :=
  clearLanes (onPort d p fun q => { q with
    attempt := a
    attRate := rate
    rate := rate
    phase := ph
    attAt := d.now
    phaseAt := d.now
    trainDone := false
    qual := 0
    failOwed := none
    rateReq := rate
    helloSent := 0 }) p

/-- Signal detect is valid on every lane of a port (R57). -/
def signalOk (d : Dev) (p : Nat) : Bool := (portLanes d p).all fun l => (laneOf d l).sd

/-- The polarity of the lanes takes effect at a bring-up (R53). -/
def applyPolarity (d : Dev) (p : Nat) : Dev :=
  (List.range (portOf d p).conf.width).foldl (fun d i => onLane d (p + i) fun x => { x with
    txInv := bitOf (portOf d p).conf.txInv i
    rxInv := bitOf (portOf d p).conf.rxInv i }) d

/-- Re-entry to SEEK: every lane transmits at rate code 0, and the base attempt begins at once when signal detect is
already valid on every lane (R57, R62). -/
def enterSeek (d : Dev) (p : Nat) : Dev :=
  let d := onPort d p fun q => { q with run := q.conf }
  let d := applyPolarity (startAttempt d p .base 0 .idle) p
  let d := setLink (onPort d p fun q => { q with agreed := false, power := .l0, helloNext := d.now }) p .seek
  let d := emit d (.idle p)
  if signalOk d p then startAttempt d p .base 0 .lock else d

/-- What comes after auto-negotiation: link training, or for PHY types 0x01 and 0x02 PCS lock; that their PMD clauses
define none is read from the second case of R68 (DEDUCED, log 56). -/
def trainPhase (c : PortConf) : EthPhase := if c.rate ≤ 2 then .pcs else .training

/-- Where bring-up of an Ethernet port begins (R67, R68). -/
def ethStart (c : PortConf) : EthPhase := if bitOf c.flags 0 then .autoneg else trainPhase c

/-- Bring-up of a configured port starts: in SEEK on a Spindle link port, from auto-negotiation or link training on an
Ethernet port (R57, R68, R88, R91). -/
def startBringup (d : Dev) (p : Nat) : Dev :=
  if !portsRun d p || !isPort d p then d
  else if isSpindle d p then enterSeek d p
  else
    let d := (portLanes d p).foldl (fun d l => onLane d l fun x => { x with fecAligned := false }) d
    setLink (applyPolarity (onPort d p fun q => { q with
    power := .l0
    phase := .idle
    run := q.conf
    rate := q.conf.rate
    ethPhase := ethStart q.conf
    pcsOk := false
    anFailAt := none
    anMiss := false }) p) p .down

/-- A port is disabled: its lanes are held in L2 (R51). -/
def disablePort (d : Dev) (p : Nat) : Dev :=
  setLink (onPort (takeDown d p drPortDown) p fun q => { q with power := .l2 }) p .disabled

/- The smoker (R84 to R88). -/

/-- 10 minutes without a transition have passed (R87). -/
def historyOld (d : Dev) (q : Port) : Bool :=
  let last := max (q.lastTrans.getD 0) (q.quarEnd.getD 0)
  q.link != .quarantine && (q.lastTrans.isSome || q.quarEnd.isSome) && expired d last (600 * sec)

/-- The level of the next hold-off (R86, R87). -/
def holdLevel (d : Dev) (p : Nat) : Nat := if historyOld d (portOf d p) then 0 else (portOf d p).holdLevel

/-- EV_PORT_QUARANTINE on entry or exit (R88). -/
def raiseQuarantine (d : Dev) (p : Nat) (entry : Bool) : Dev :=
  raise d (dieOfPort p) evPortQuarantine (leBytes 2 p ++ leBytes 1 (atBit 0 entry) ++ leBytes 1 (portOf d p).quarLevel)

/-- A port is quarantined for the current hold-off; its lanes transmit idle from then on (R80, R84 to R88). -/
def quarantinePort (d : Dev) (p : Nat) : Dev :=
  let n := holdLevel d p
  let d := onPort d p fun q => { q with
    quarLevel := n
    quarUntil := d.now + 2 ^ n * sec
    holdLevel := min (n + 1) 6
    power := .l0 }
  let d := raiseQuarantine (bumpPort (setLink d p .quarantine) p cntQuarantine 1) p true
  emit (takeDown d p drQuarantine) (.idle p)

/-- A link transition is counted and judged; the answer is whether it quarantines the port (R72, R84). -/
def transition (d : Dev) (p : Nat) : Bool × Dev :=
  let n := holdLevel d p
  let d := bumpPort (onPort d p fun q => { q with
    holdLevel := n
    lastTrans := some d.now
    transitions := (tickOf d :: q.transitions).take 9 }) p cntLinkTransition 1
  let t := (portOf d p).transitions
  if t.length = 9 && decide (t.headD 0 - t.getLastD 0 < 781250000) then (true, quarantinePort d p) else (false, d)

/-- A link that is UP goes DOWN of its own accord; bring-up restarts (R70, R72, R78, R130). -/
def linkFails (d : Dev) (p : Nat) : Dev :=
  if (portOf d p).link ≠ .up then d
  else
    let x := transition d p
    if x.1 then x.2 else startBringup (takeDown (setLink x.2 p .down) p drPortDown) p

/-- A link comes UP of its own accord: the role announcement follows on a Spindle link, and pausing is decided anew
(R57, R72, R138, R732). -/
def linkUp (d : Dev) (p : Nat) : Dev :=
  let x := transition d p
  if x.1 then x.2
  else
    let d := onPort x.2 p fun q => { q with
      phase := .idle
      power := .l0
      upAt := d.now
      rx := .out
      rxFrame := none
      rxRow := 0
      rxBlk := 0
      roleSeen := false
      farRoleAt := none
      farQuiet := 0
      quiet := 0
      roleLeft := 0
      txBlk := 0
      txBlkAt := d.now
      txFrom := d.now
      lastTx := d.now
      lastRx := d.now }
    let d := emit (setLink d p .up) (.idle p)
    let d := if isSpindle d p then sendRole d p else d
    let d := wakeSlice d (dieOfPort p) (sliceOfPort p)
    let n := dieOfPort p
    let vs := ((dieOf d n).tab.ves.filter fun e => e.2.valid && e.2.port == p).map (·.1)
    vs.foldl (fun d v => decideVe d n v) (decidePause d p)

/-- A quarantine ends with an empty history: `bringup` says whether bring-up restarts (R88, R89, R91). -/
def endQuarantine (d : Dev) (p : Nat) (bringup : Bool) : Dev :=
  let d := raiseQuarantine (onPort d p fun q => { q with transitions := [], quarEnd := some d.now, quarUntil := 0 }) p false
  if bringup then startBringup d p else d

/-- Bring-up restarts on a port that may be UP (R72, R92). -/
def restartBringup (d : Dev) (p : Nat) : Dev := startBringup (takeDown d p drPortDown) p

/-- An attempt fails (R60 to R63): a step falls back to the lower rate and sets the ceiling; a base or fallback attempt
leaves the port DOWN for the restart wait. `lane` is the failing lane. -/
def failAttempt (d : Dev) (p lane : Nat) : Dev :=
  let q := portOf d p
  let d := bumpPort d p cntStepFail 1
  match q.attempt with
  | .step =>
    let d := onPort d p fun x => { x with ceiling := some (q.attRate - 1), failRate := q.attRate, failLane := lane }
    let d := startAttempt d p .fallback (q.attRate - 1) .pll
    raise d (dieOfPort p) evPortStepFail (leBytes 2 p ++ leBytes 1 q.attRate ++ leBytes 1 0 ++ leBytes 2 lane)
  | _ => setLink (onPort d p fun x => { x with phase := .restartWait, phaseAt := d.now }) p .down

end Sys2Proof.Machine
end

