-- ==== Sys2Proof/Machine/Bringup.lean ====
section
/-! DEFINITION. Bring-up of Spindle and Ethernet ports: signal detect, HELLO, locks, training, qualification, timers and
the smoker's rows (R57 to R72, R79, R82, R84 to R89, R114, R123, R124, R129 to R135). -/

namespace Sys2Proof.Machine

/- Signal detect (R57, R70, R71, R79, R141). -/

/-- The base attempt of a port in SEEK begins (R57, R58). -/
def beginBase (d : Dev) (p : Nat) : Dev :=
  let locked := (portLanes d p).all fun l => (laneOf d l).blockLock
  onPort d p fun q => { q with
    phase := if locked then .train else .lock
    attAt := d.now
    phaseAt := d.now }

/-- SIGNAL_DETECT_CHANGE: a change begins debounce; one that reverts within 10 µs is a glitch (R71). -/
def execSignalDetectChange (lane : Nat) (level : Bool) (s : State) : Host.Outcome State Fault Refusal :=
  onDev s fun d =>
    let x := laneOf d lane
    if !alive d (dieOfPort lane) || x.sdRaw == level then d
    else
      let d := onLane d lane fun x => { x with sdRaw := level, sdSince := if level = x.sd then none else some d.now }
      if level = x.sd then bumpPort d ((portOfLane d lane).getD lane) cntSdGlitch 1 else d

/-- Signal detect of a lane of a port has risen, after debounce. -/
def signalRose (d : Dev) (p : Nat) : Dev :=
  let q := portOf d p
  if q.link == .up && q.power == .l2 then exitL2 (wakeSlice d (dieOfPort p) (sliceOfPort p)) p
  else if q.link == .seek && q.phase == .idle && signalOk d p then beginBase d p
  else d

/-- SIGNAL_DETECT_VALID: a change has stood for 10 µs (R57, R70, R71, R79). Loss of signal on a port in L0 takes its link
down, unless the far end announced a quiet state (R76, R141). -/
def execSignalDetectValid (lane : Nat) (s : State) : Host.Outcome State Fault Refusal :=
  onDev s fun d =>
    let x := laneOf d lane
    match x.sdSince with
    | none => d
    | some t =>
      if !alive d (dieOfPort lane) || !expired d t (10 * us) then d
      else
        let d := onLane d lane fun x => { x with sd := x.sdRaw, sdSince := none }
        match portOfLane d lane with
        | none => d
        | some p =>
          let q := portOf d p
          if !isSpindle d p then d
          else if x.sdRaw then signalRose d p
          else if q.link == .up && q.power == .l0 && q.farQuiet == 0 then linkFails d p
          else d

/- HELLO (R57, R129, R130, R132 to R135). -/

/-- A HELLO field. -/
def hf (c : BitVec 40) (lo w : Nat) : Nat := bitsOf c.toNat lo w

/-- The width code of HELLO (R132). -/
def widthCode (w : Nat) : Nat := if w = 8 then 3 else if w = 4 then 2 else if w = 2 then 1 else 0

/-- A HELLO that its lane ignores (R129). -/
def helloBad (c : BitVec 40) : Bool :=
  hf c 34 6 != 0 || hf c 24 8 != 0 || hf c 14 2 != 0 || hf c 22 2 == 3 || decide (hf c 8 3 > 4) || decide (hf c 5 3 > 4)
    || decide (hf c 0 3 ≥ 2 ^ hf c 3 2)

/-- The fields that agreement compares (R133). -/
def helloId (c : BitVec 40) : Nat := c.toNat / 2 ^ 24 * 2 ^ 24 + hf c 3 13 * 8

/-- SIDE that the far end of a port must report (R135). -/
def sideWanted (d : Dev) (p : Nat) : Nat := if isPeerPort d p then 1 else 0

/-- Every lane of a port has received 3 consecutive identical HELLOs (R57). -/
def helloSteady (d : Dev) (p : Nat) : Bool := (portLanes d p).all fun l => decide ((laneOf d l).helloRun ≥ 3)

/-- The far end agrees (R57, R135): widths are equal, the lane indices are those of the port, and SIDE fits. -/
def helloAgrees (d : Dev) (p : Nat) : Bool :=
  let w := (portOf d p).conf.width
  let hs := (portLanes d p).map fun l => (laneOf d l).hello
  helloSteady d p && hs.all (fun c => hf c 32 2 == sideWanted d p && hf c 3 2 == widthCode w)
    && (List.range w).all fun i => hs.any fun c => hf c 0 3 == i

/-- Every lane's latest HELLO of this attempt satisfies `f`. -/
def farAll (d : Dev) (p : Nat) (f : BitVec 40 → Bool) : Bool :=
  (portLanes d p).all fun l => (laneOf d l).helloAt.isSome && f (laneOf d l).hello

/-- Target rate of a port (R56). The far end's RATE_MAX is that of the lowest lane's HELLO (DESIGN CHOICE, log 56). -/
def targetRate (d : Dev) (p : Nat) : Nat :=
  let q := portOf d p
  min (min q.conf.rate (hf (laneOf d p).hello 5 3)) (q.ceiling.getD 4)

/-- The rate switch of step 4 (R57): both ends have requested the next rate. -/
def switchRate (d : Dev) (p : Nat) : Dev :=
  let q := portOf d p
  let ready := (portLanes d p).all fun l => decide ((laneOf d l).reqRun ≥ 3) && hf (laneOf d l).hello 8 3 == q.rateReq
  if q.phase == .passed && decide (q.rateReq > q.attRate) && decide (q.helloSent ≥ 32) && ready then
    setLink (startAttempt d p .step q.rateReq .pll) p .stepping
  else d

/-- Both ends have passed at the current rate (R57, R61): the link is UP at the target rate or after a fallback, else the
next rate is requested. -/
def passedBoth (d : Dev) (p : Nat) : Dev :=
  let q := portOf d p
  if q.phase == .passed && farAll d p (fun c => hf c 11 2 == 1) then
    if q.attempt == .fallback || decide (q.attRate ≥ targetRate d p) then linkUp d p
    else if q.rateReq > q.attRate then d
    else onPort d p fun q => { q with rateReq := q.attRate + 1, helloSent := 0 }
  else d

/-- Bring-up proceeds as far as what both ends have reported allows (R57). -/
def advance (d : Dev) (p : Nat) : Dev :=
  let q := portOf d p
  let busy := q.phase == .lock || q.phase == .train
  let d := if q.attempt == .base && busy && !q.agreed && helloAgrees d p then onPort d p fun q => { q with agreed := true } else d
  let q := portOf d p
  let d := if q.phase == .train && q.agreed && q.trainDone && farAll d p (fun c => hf c 13 1 == 1) then
    onPort d p fun q => { q with phase := .qualify, phaseAt := d.now } else d
  switchRate (passedBoth d p) p

/-- A valid HELLO takes effect on its lane: what it carries is kept, and a request for the transmit coefficients waits to
be applied (R57, R133, R134). -/
def keepHello (d : Dev) (l : Nat) (c : BitVec 40) : Dev :=
  onLane d l fun x =>
    let asks := hf c 16 6 != 0
    { x with
      helloAt := some d.now
      helloRun := if x.helloRun > 0 && helloId x.hello == helloId c then x.helloRun + 1 else 1
      reqRun := if x.reqRun > 0 && hf x.hello 8 3 == hf c 8 3 then x.reqRun + 1 else 1
      ask := if hf c 22 2 == 0 then x.ask else none
      coefStatus := if asks then x.coefStatus else 0
      coefReq := if asks && x.coefStatus == 0 && x.coefReq.isNone then some (hf c 16 2, hf c 18 2, hf c 20 2) else x.coefReq
      hello := c }

/-- RX_HELLO (R57, R60, R127, R129, R130, R135). CNT_SIDE_MISMATCH rises once each time all lanes have become steady with
a wrong SIDE (DESIGN CHOICE, log 56). -/
def execRxHello (lane : Nat) (content : BitVec 40) (crcOk : Bool) (s : State) : Host.Outcome State Fault Refusal :=
  onDev s fun d =>
    match portOfLane d lane with
    | none => d
    | some p =>
      let q := portOf d p
      let d := passBlock d p
      if !isSpindle d p || !alive d (dieOfPort p) || q.link == .quarantine || q.link == .test || q.link == .disabled then d
      else if q.link == .up && !rxOn d p then d
      else if !crcOk || helloBad content then bumpPort d p cntOsBad 1
      else if q.link == .up then linkFails d p
      else if q.link == .down || q.phase == .pll then d
      else
        let was := helloSteady d p
        let d := keepHello d lane content
        let odd := (portLanes d p).any fun l =>
          let side := hf (laneOf d l).hello 32 2
          side != sideWanted d p && decide (side ≤ 1)
        let d := if !was && helloSteady d p && odd then bumpPort d p cntSideMismatch 1 else d
        if (q.phase == .train || q.phase == .qualify || q.phase == .passed) && hf content 11 2 == 2 then failAttempt d p lane else advance d p

/-- HELLO of a lane of a port (R132). -/
def helloContent (d : Dev) (p i : Nat) : BitVec 40 :=
  let q := portOf d p
  let x := laneOf d (p + i)
  let ask := x.ask.getD (0, 0, 0)
  BitVec.ofNat 40 (i + widthCode q.conf.width * 2 ^ 3 + q.conf.rate * 2 ^ 5 + q.rateReq * 2 ^ 8 + q.qual * 2 ^ 11
    + atBit 13 q.trainDone + ask.1 * 2 ^ 16 + ask.2.1 * 2 ^ 18 + ask.2.2 * 2 ^ 20 + x.coefStatus * 2 ^ 22 + 2 ^ 32)

/-- The HELLOs of all lanes of a port go out in one row (R132). -/
def sendHello (d : Dev) (p : Nat) : Dev := emitOn d p (.hello p ((List.range (portOf d p).conf.width).map (helloContent d p)))

/-- Qualification fails at this end: the next HELLO reports it with QUAL 2, and with it the attempt fails (R57, R58, R60,
R132; DESIGN CHOICE, log 56). -/
def failQualify (d : Dev) (p lane : Nat) : Dev :=
  onPort d p fun q => { q with qual := 2, failOwed := some (q.failOwed.getD lane) }

/-- A tap and its request as the number `r` asks: one request at a time, or none (R132, R134). -/
def askOf (r : Nat) : Option (Nat × Nat × Nat) :=
  let v := r / 10 % 3 + 1
  match r % 10 with
  | 0 => none
  | 1 | 2 | 3 => some (v, 0, 0)
  | 4 | 5 | 6 => some (0, v, 0)
  | _ => some (0, 0, v)

/-- While its receiver trains, a lane asks for a change of the far end's taps once the last request is answered and
withdrawn; which change is a free value (R57, R134; log 31). -/
def askTaps (d : Dev) (p l : Nat) : Dev :=
  let x := laneOf d l
  if (portOf d p).phase != .train || (portOf d p).trainDone || x.ask.isSome || hf x.hello 22 2 != 0 then d
  else
    let r := takeUnstated d
    onLane r.2 l fun x => { x with ask := askOf r.1 }

/-- HELLO_TX_DUE: each lane sends its HELLO, one every 1 µs during SEEK and stepping; one that reports a failed
qualification ends the attempt (R57, R58, R60, R125). -/
def execHelloTxDue (port : Nat) (s : State) : Host.Outcome State Fault Refusal :=
  onDev s fun d =>
    let q := portOf d port
    if !isSpindle d port || !alive d (dieOfPort port) || !(q.link == .seek || q.link == .stepping) || d.now < q.helloNext then d
    else
      let d := sendHello ((portLanes d port).foldl (fun d l => askTaps d port l) d) port
      let d := onPort d port fun q => { q with helloNext := d.now + us, helloSent := q.helloSent + 1 }
      match q.failOwed with
      | some lane => failAttempt d port lane
      | none => switchRate d port

/-- SEEK_LOCK_RESTART: 10 ms after block lock without a valid HELLO since then, a lane drops lock and seeks again (R58). -/
def execSeekLockRestart (lane : Nat) (s : State) : Host.Outcome State Fault Refusal :=
  onDev s fun d =>
    let x := laneOf d lane
    match portOfLane d lane with
    | none => d
    | some p =>
      if (portOf d p).link != .seek || !x.blockLock || x.helloAt.any (x.lockAt ≤ ·) || !expired d x.lockAt (10 * ms) then d
      else
        onPort (onLane d lane fun x => { x with blockLock := false, cwLock := false }) p fun q =>
          { q with phase := if q.phase == .train then .lock else q.phase }

/- Locks and training (R57, R58, R123, R134). -/

/-- PLL_LOCK: the rate switch ends and the search for lock begins (R57, R58). -/
def execPllLock (port : Nat) (s : State) : Host.Outcome State Fault Refusal :=
  onDev s fun d =>
    if (portOf d port).phase != .pll || !alive d (dieOfPort port) then d
    else onPort d port fun q => { q with phase := .lock, phaseAt := d.now }

/-- Every lane of a port has lock: equaliser training begins (R57, R58). -/
def lockDone (d : Dev) (p : Nat) : Dev :=
  if (portOf d p).phase == .lock then
    advance (onPort d p fun q => { q with phase := .train, phaseAt := d.now }) p
  else d

/-- An attempt is in progress. -/
def inAttempt (q : Port) : Bool := match q.phase with
  | .pll | .lock | .train | .qualify | .passed => true
  | _ => false

/-- The check window after an L2 exit begins: the port has retrained (R78). -/
def beginCheck (d : Dev) (p : Nat) : Dev := onPort d p fun q => { q with phase := .l2Check, phaseAt := d.now }

/-- LANE_LOCK: block lock, and codeword lock at the FEC rates, on every lane of a port (R57); skew between its lanes above
200 ns fails the attempt in progress (R54). On an L2 exit it ends the retraining (R78). -/
def execLaneLock (port skew : Nat) (s : State) : Host.Outcome State Fault Refusal :=
  onDev s fun d =>
    let q := portOf d port
    if !isSpindle d port || !alive d (dieOfPort port) then d
    else if q.link == .up && q.phase == .l2Train then beginCheck d port
    else if !(q.link == .seek || q.link == .stepping) || q.phase == .pll then d
    else if skew > 200 then if inAttempt q then failAttempt d port port else d
    else
      let fec := decide (q.attRate ≥ 2)
      lockDone ((portLanes d port).foldl (fun d l => onLane d l fun x =>
        { x with blockLock := true, cwLock := fec, cwBad := 0, lockAt := if x.blockLock then x.lockAt else d.now }) d) port

/-- A tap after a request: 1 increment, 2 decrement, 3 return to the preset `z` (R132, R684). -/
def moveTap (z t : Int) (r : Nat) : Int := if r = 1 then t + 1 else if r = 2 then t - 1 else if r = 3 then z else t

/-- COEF_REQUEST_APPLIED: the responder applies the request, or reports that a tap is at its limit (R134). -/
def execCoefRequestApplied (lane : Nat) (atLimit : Bool) (s : State) : Host.Outcome State Fault Refusal :=
  onDev s fun d =>
    match (laneOf d lane).coefReq with
    | none => d
    | some (a, b, c) =>
      let z := presetOf d lane (((portOfLane d lane).map fun p => (portOf d p).attRate).getD 0)
      onLane d lane fun x =>
      if atLimit then { x with coefReq := none, coefStatus := 2 }
      else { x with
        coefReq := none
        coefStatus := 1
        tapPre := moveTap z.1 x.tapPre a
        tapMain := moveTap z.2.1 x.tapMain b
        tapPost := moveTap z.2.2 x.tapPost c }

/-- FEC applies to the lanes of a port as they run now. -/
def hasFec (d : Dev) (p : Nat) : Bool :=
  let q := portOf d p
  if q.run.mode = 1 then decide (q.rate ≥ 2)
  else q.run.mode == 2 && decide (q.run.rate ≥ 2) && !(q.run.rate == 2 && bitOf q.run.flags 1)

/-- The link of an Ethernet port stands: link training is over, the PCS reports link status OK, and the FEC of a PHY type
with RS-FEC reports alignment on every lane (R68, R69). -/
def ethStands (d : Dev) (p : Nat) : Bool :=
  (portOf d p).ethPhase == .pcs && (portOf d p).pcsOk
    && (!hasFec d p || (portLanes d p).all fun l => (laneOf d l).fecAligned)

/-- An Ethernet link is UP while it stands, and DOWN otherwise (R69, R72). -/
def judgeEth (d : Dev) (p : Nat) : Dev :=
  if ethStands d p && (portOf d p).link == .down then linkUp d p
  else if !ethStands d p && (portOf d p).link == .up then linkFails d p
  else d

/-- EQ_TRAINING_DONE: the receiver of a port has finished training; the qualification window starts once both ends
report it (R57, R58). Link training of an Ethernet port ends in PCS lock (R68), and retraining on an L2 exit in the check
window (R78). -/
def execEqTrainingDone (port : Nat) (s : State) : Host.Outcome State Fault Refusal :=
  onDev s fun d =>
    let q := portOf d port
    if isEth d port && q.ethPhase == .training && portsRun d port then
      judgeEth (onPort d port fun q => { q with ethPhase := .pcs }) port
    else if q.link == .up && q.phase == .l2Train && alive d (dieOfPort port) then beginCheck d port
    else if (portOf d port).phase != .train || !alive d (dieOfPort port) then d
    else advance (onPort d port fun q => { q with trainDone := true }) port

/-- Duration of the qualification window by rate code (R55). -/
def windowTime (rate : Nat) : Nat := [83886080, 33554432, 16778240, 8389120, 4194560].getD rate 0

/-- QUALIFICATION_WINDOW_END: the window has passed on every lane, and the pass is reported (R57, R59). -/
def execQualificationWindowEnd (port : Nat) (s : State) : Host.Outcome State Fault Refusal :=
  onDev s fun d =>
    let q := portOf d port
    if q.phase != .qualify || q.failOwed.isSome || !alive d (dieOfPort port) || !expired d q.phaseAt (windowTime q.attRate) then d
    else advance (onPort d port fun q => { q with phase := .passed, qual := 1 }) port

/- Limits (R58, R60, R62). -/

/-- Budget of a phase, where it has one (R58). The lock phase of a base attempt starts with no PLL lock and has none. -/
def phaseBudget (q : Port) : Option Nat := match q.phase with
  | .pll => some ms
  | .lock => if q.attempt == .base then none else some (4 * ms)
  | .train => some (80 * ms)
  | _ => none

/-- PHASE_BUDGET_EXPIRY; `failLane` is the global ID of the failing lane (R58, R60). -/
def execPhaseBudgetExpiry (port failLane : Nat) (s : State) : Host.Outcome State Fault Refusal :=
  onDev s fun d =>
    match phaseBudget (portOf d port) with
    | none => d
    | some t => if expired d (portOf d port).phaseAt t && alive d (dieOfPort port) then failAttempt d port failLane else d

/-- ATTEMPT_LIMIT_EXPIRY: 100 ms have passed without a pass reported by both ends (R58, R60). A port that both ends have
passed and that waits for the step handshake has its pass. -/
def execAttemptLimitExpiry (port failLane : Nat) (s : State) : Host.Outcome State Fault Refusal :=
  onDev s fun d =>
    let q := portOf d port
    let both := q.phase == .passed && farAll d port (fun c => hf c 11 2 == 1)
    if inAttempt q && !both && expired d q.attAt (100 * ms) && alive d (dieOfPort port) then failAttempt d port failLane else d

/-- Since when a lane has been silent in an attempt: its last valid HELLO, its lock, or the start of a base attempt; none
while a step or fallback attempt has no lock (R60). -/
def silentSince (d : Dev) (p l : Nat) : Option Nat :=
  let q := portOf d p
  let x := laneOf d l
  match x.helloAt with
  | some t => some t
  | none => if q.attempt == .base then some q.attAt else if x.blockLock then some x.lockAt else none

/-- HELLO_SILENCE_EXPIRY: no valid HELLO has arrived on a lane for 1 ms (R60). An attempt that both ends have passed and
that waits for the next rate fails too (DESIGN CHOICE, log 56). -/
def execHelloSilenceExpiry (lane : Nat) (s : State) : Host.Outcome State Fault Refusal :=
  onDev s fun d =>
    match portOfLane d lane with
    | none => d
    | some p => match silentSince d p lane with
      | none => d
      | some t => if inAttempt (portOf d p) && expired d t ms && alive d (dieOfPort p) then failAttempt d p lane else d

/-- RESTART_WAIT_EXPIRY: the port re-enters SEEK (R58, R62). -/
def execRestartWaitExpiry (port : Nat) (s : State) : Host.Outcome State Fault Refusal :=
  onDev s fun d =>
    let q := portOf d port
    if q.phase == .restartWait && expired d q.phaseAt (100 * ms) then startBringup d port else d

/- Codewords and blocks (R59, R70, R114, R123, R124). -/

/-- A lane of a Spindle link port loses lock (R70): it is counted, and a link that is UP goes DOWN. -/
def loseLock (d : Dev) (p l : Nat) : Dev :=
  let d := onLane (bumpPort d p cntLol 1) l fun x => { x with
    blockLock := false
    cwLock := false
    cwBad := 0
    cwGood := 0
    cwOffset := 0
    resume := none
    rxScrN := 0
    badRows := [] }
  linkFails d p

/-- A lane decodes a codeword while it seeks codeword lock: the fourth in a row that is correctable with every sync header
valid gives it, and any other moves the candidate boundary by one bit (R119, R123). -/
def seekCodeword (d : Dev) (p l : Nat) (good : Bool) : Dev :=
  let x := laneOf d l
  if !good then onLane d l fun x => { x with cwGood := 0, cwOffset := (x.cwOffset + 1) % 5440 }
  else if x.cwGood + 1 < 4 then onLane d l fun x => { x with cwGood := x.cwGood + 1 }
  else
    let d := onLane d l fun x => { x with cwLock := true, blockLock := true, lockAt := d.now, cwGood := 0, cwBad := 0 }
    if (portLanes d p).all fun l => (laneOf d l).cwLock then lockDone d p else d

/-- A lane whose far end announced a quiet state decodes a codeword: at the boundary it held, four in a row that are
correctable confirm its lock, and without them within 10 codewords it searches again (R123, R142). While there is no
signal nothing is decoded, and the boundary is held. -/
def resumeCodeword (d : Dev) (l : Nat) (good : Bool) : Dev :=
  onLane d l fun x =>
    let n := x.resume.getD 0 + 1
    let g := if good then x.cwGood + 1 else 0
    if !x.sdRaw then { x with resume := none, cwGood := 0 }
    else if g ≥ 4 then { x with resume := none, cwGood := 0 }
    else if n ≥ 10 then { x with resume := none, cwGood := 0, cwLock := false, cwOffset := 0 }
    else { x with resume := some n, cwGood := g }

/-- A codeword meets the condition of the qualification window (R59). -/
def codewordFine (corrected : Option Nat) : Bool := corrected.any fun k => decide (k ≤ 6)

/-- RX_CODEWORD: a lane decodes a codeword (R59, R78, R123, R124, R142). -/
def execRxCodeword (lane : Nat) (result : CwResult) (s : State) : Host.Outcome State Fault Refusal :=
  onDev s fun d =>
    match portOfLane d lane with
    | none => d
    | some p =>
      let q := portOf d p
      if !hasFec d p || !alive d (dieOfPort p) || q.link == .disabled || q.link == .test || (q.link == .up && !rxOn d p) then d
      else
        let d := match result.corrected with
          | some k => bumpPort (if k > 0 then bumpPort d lane cntFecCorr 1 else d) lane (cntFecHist + min k 8) 1
          | none => bumpPort d lane cntFecUncorr 1
        if !isSpindle d p then d
        else if q.phase == .qualify && !codewordFine result.corrected then failQualify d p lane
        else if q.phase == .l2Check && !codewordFine result.corrected then linkFails d p
        else if !(laneOf d lane).cwLock then seekCodeword d p lane (result.corrected.isSome && result.headersOk)
        else if q.farQuiet != 0 then resumeCodeword d lane result.corrected.isSome
        else if result.corrected.isSome then onLane d lane fun x => { x with cwBad := 0 }
        else if (laneOf d lane).cwBad + 1 ≥ 3 then loseLock d p lane
        else onLane d lane fun x => { x with cwBad := x.cwBad + 1 }

/-- An invalid sync header of a lane in lock: 16 within 64 blocks lose block lock (R70). A far end in a quiet state sends
none (R142). -/
def badSync (d : Dev) (p l row : Nat) : Dev :=
  let rows := row :: ((laneOf d l).badRows.filter fun r => decide (r + 64 > row))
  if !(laneOf d l).blockLock || (portOf d p).farQuiet != 0 then d
  else if rows.length ≥ 16 then loseLock d p l else onLane d l fun x => { x with badRows := rows }

/-- RX_BAD_BLOCK: `lane` is the global ID of the lane that carried it, `badHeader` whether its sync header was invalid,
`inFec` whether it came from an uncorrectable codeword (R59, R70, R78, R114). -/
def execRxBadBlock (port lane : Nat) (badHeader inFec : Bool) (s : State) : Host.Outcome State Fault Refusal :=
  onDev s fun d =>
    let q := portOf d port
    if !receiving d port && !hears d port then d
    else
      let d := if receiving d port then badBlock d port inFec else passBlock (bumpPort d port cntRxBadBlock 1) port
      let raw := decide (q.rate ≤ 1)
      if q.phase == .qualify && raw then failQualify d port lane
      else if q.phase == .l2Check && raw then linkFails d port
      else if badHeader && raw then badSync d port lane q.rxRow else d

/- The smoker (R87, R88). -/

/-- QUARANTINE_HOLDOFF_END (R88). -/
def execQuarantineHoldoffEnd (port : Nat) (s : State) : Host.Outcome State Fault Refusal :=
  onDev s fun d =>
    let q := portOf d port
    if q.link != .quarantine || !alive d (dieOfPort port) || d.now < q.quarUntil then d else endQuarantine d port true

/-- SMOKER_HISTORY_RESET: 10 minutes without a link transition (R87). -/
def execSmokerHistoryReset (port : Nat) (s : State) : Host.Outcome State Fault Refusal :=
  onDev s fun d => onPort d port fun q => if historyOld d q then { q with holdLevel := 0 } else q

/- Ethernet links (R67 to R69). -/

/-- The FEC abilities that the table of R66 allows for a PHY type, by codeword length; 0 is none. -/
def fecAbilities (rate : Nat) : List Nat := if rate = 1 then [0] else if rate = 2 then [528, 0] else if rate = 4 then [528] else [544]

/-- ETH_AN_EXCHANGE: an exchange of base pages completes: the device has advertised the configured PHY type and its FEC
abilities, and `partner` holds the PHY types that the partner offers. EV_PORT_AN_FAIL reports the first exchange that
finds no common ability (R67); with one, link training or PCS lock follows (R68). -/
def execEthAnExchange (port : Nat) (partner : List Nat) (s : State) : Host.Outcome State Fault Refusal :=
  onDev s fun d =>
    let q := portOf d port
    if !isEth d port || q.ethPhase != .autoneg || !portsRun d port then d
    else
      let d := emit d (.anPage port q.conf.rate (fecAbilities q.conf.rate))
      if partner.contains q.conf.rate then onPort d port fun q => { q with anFailAt := none, anMiss := false, ethPhase := trainPhase q.conf }
      else if q.anFailAt.isSome then onPort d port fun q => { q with anMiss := true }
      else raise (onPort d port fun q => { q with anFailAt := some d.now, anMiss := false }) (dieOfPort port) evPortAnFail
        (leBytes 2 port)

/-- AN_FAIL_REPEAT: 10 s after the last report, and a later exchange has found none again (R67). -/
def execAnFailRepeat (port : Nat) (s : State) : Host.Outcome State Fault Refusal :=
  onDev s fun d =>
    let q := portOf d port
    match q.anFailAt with
    | none => d
    | some t =>
      if !expired d t (10 * sec) || !q.anMiss || q.ethPhase != .autoneg then d
      else raise (onPort d port fun q => { q with anFailAt := some d.now, anMiss := false }) (dieOfPort port) evPortAnFail
        (leBytes 2 port)

/-- ETH_LINK_STATUS_CHANGE: the PCS of an Ethernet port and its FEC report their status (R69, R72). PCS lock ends link
training. -/
def execEthLinkStatusChange (port : Nat) (status : EthStatus) (s : State) : Host.Outcome State Fault Refusal :=
  onDev s fun d =>
    if !isEth d port || !portsRun d port || (portOf d port).ethPhase == .idle
        || (portOf d port).ethPhase == .autoneg then d
    else
      let d := (List.range (portOf d port).conf.width).foldl (fun d i =>
        onLane d (port + i) fun x => { x with fecAligned := status.aligned.getLsbD i }) d
      judgeEth (onPort d port fun q => { q with pcsOk := status.pcs, ethPhase := if status.pcs then .pcs else q.ethPhase }) port

/- Test mode (R82). -/

/-- The next bit of the sequence x^31 + x^28 + 1 after its last 31 bits, the latest lowest (R82). -/
def prbsNext (s : BitVec 31) : Bool := Bool.xor (s.getLsbD 27) (s.getLsbD 30)

def prbsShift (s : BitVec 31) (b : Bool) : BitVec 31 := BitVec.ofNat 31 (s.toNat * 2 + b.toNat)

/-- `n` bits of the generator, first bit first (R82). -/
def prbsBits : Nat → BitVec 31 → List Bool
  | 0, _ => []
  | n + 1, s => prbsNext s :: prbsBits n (prbsShift s (prbsNext s))

/-- Bits that differ from the checker's own sequence, and the checker after them (R82). -/
def prbsCheck : BitVec 31 → List Bool → Nat × BitVec 31
  | s, [] => (0, s)
  | s, b :: l =>
    let r := prbsCheck (prbsShift s (prbsNext s)) l
    (r.1 + (if b = prbsNext s then 0 else 1), r.2)

/-- A locked checker counts every bit error (R82). -/
def prbsCount (d : Dev) (l : Nat) (bits : List Bool) : Dev :=
  onLane d l fun x =>
    let r := prbsCheck x.prbsRef bits
    { x with prbsErrors := min (x.prbsErrors + r.1) (two64 - 1), prbsRef := r.2 }

/-- PRBS_CHECKER_LOCK: the bits that a lane in test mode has received. The checker takes its sequence from 31 of them that
are not all 0 (DESIGN CHOICE, log 56), and locks when fewer than 16 of the next 1,024 differ; a locked checker counts
every bit error (R82). -/
def execPrbsCheckerLock (lane : Nat) (bits : List Bool) (s : State) : Host.Outcome State Fault Refusal :=
  onDev s fun d =>
    match portOfLane d lane with
    | none => d
    | some p =>
      if (portOf d p).link != .test then d
      else if (laneOf d lane).prbsLock then prbsCount d lane bits
      else
        let seed := (bits.take 31).foldl prbsShift 0
        let r := prbsCheck seed ((bits.drop 31).take 1024)
        if bits.length < 1055 || seed == 0 || r.1 ≥ 16 then d
        else prbsCount (onLane d lane fun x => { x with prbsLock := true, prbsErrors := 0, prbsAt := d.now, prbsRef := r.2 }) lane
          (bits.drop 1055)

end Sys2Proof.Machine
end

