-- ==== Sys2Proof/Machine/HaCore.lean ====
section
/-! DEFINITION. The queen lease: what taking it, fencing and demotion do (R634 to R645, R654, R655, R660). -/

namespace Sys2Proof.Machine

/-- EPOCH `a` is newer than `b` (R150). -/
def newer (a b : Nat) : Bool :=
  if a = 0 then false else if b = 0 then true else decide (1 ≤ (a + 65536 - b) % 65536) && decide ((a + 65536 - b) % 65536 ≤ 32767)

/-- The EPOCH that follows (R641). -/
def nextEpoch (e : Nat) : Nat := if e = 65535 then 1 else e + 1

/-- EV_HA_ROLE (R660). -/
def raiseRole (d : Dev) (cause : Nat) : Dev :=
  raise d 0 evHaRole (leBytes 1 (roleOf d) ++ leBytes 1 cause ++ leBytes 2 d.ha.epoch)

def spindlePorts (d : Dev) : List Nat := (configured d).filter fun p => isSpindle d p && portUp d p

/-- Every Spindle link announces the present role, from L1 and L2 as well (R138, R639, R641). -/
def announceAll (d : Dev) : Dev :=
  (spindlePorts d).foldl (fun d p => match (portOf d p).power with
    | .l0 => announceRole d p
    | .l1 => leaveL1 d p
    | .l2 => if (portOf d p).wakeAt.isSome then sendRoles d p else exitL2 d p) d

/-- Slices with a configured port take a power state; the others are OFF (R482, R641, R654). -/
def setSlices (d : Dev) (pow : SlicePow) : Dev :=
  if d.thermal then d
  else (aliveDies d).foldl (fun d n => if (dieOf d n).parked then d else
    (List.range 4).foldl (fun d s =>
      let used := (configured d).any fun p => dieOfPort p == n && sliceOfPort p == s
      onSlice (if pow = .on && used then countWake d n s else d) n s fun x => { x with
        pow := if used then pow else .off
        idleAt := d.now }) d) d

/-- An EPOCH has been received, in a ROLE (`role`) or a lease frame: the newest is kept, and a package that does not
hold the lease takes it for its current EPOCH and announces it (R136, R138, R641, R644). -/
def noteEpoch (d : Dev) (e : Nat) (role : Bool) : Dev :=
  let up := newer e d.ha.epoch
  let follow := up && !d.ha.holder
  let d := { d with ha := { d.ha with
    seen := if newer e d.ha.seen then e else d.ha.seen
    newer := d.ha.newer || (role && up) } }
  if follow then
    withLease d fun d =>
      let d := { d with ha := { d.ha with epoch := e } }
      (spindlePorts d).foldl announceRole d
  else d

/-- The last renewal got no answer within 1 ms (R638). -/
def missAnswer (d : Dev) : Dev :=
  if d.ha.waiting && expired d d.ha.renewAt ms then
    bumpDie { d with ha := { d.ha with waiting := false } } 0 cntHaAnswerMiss 1
  else d

/-- Drive QUEEN_OUT high for 500 µs (R635, R637). -/
def pulseQueen (d : Dev) : Dev :=
  emit { d with ha := { d.ha with queenOut := true, queenAt := d.now } } (.pin "QUEEN_OUT" true)

/-- The holder renews on the pins and on the peer link; a new LEASE applies from this renewal (R635, R662). -/
def sendRenewal (d : Dev) : Dev :=
  let d := missAnswer d
  let d := { d with ha := { d.ha with
    inForce := d.ha.lease
    renewN := (d.ha.renewN + 1) % two32
    renewAt := d.now
    waiting := true } }
  sendPeer (bumpDie (pulseQueen d) 0 cntHaRenewTx 1) 1 d.ha.renewN d.ha.seq 0

/-- Frames on the ports of a package that stops sending are dropped, one in transmission included (R140, R639). -/
def dropQueued (d : Dev) : Dev :=
  let ports := (configured d).filter fun p => !isPeerPort d p
  let d := (d.copies.filter fun c => c.arrived && ports.contains c.port).foldl (fun d c => dropCopy d c drRoleStandby) d
  ports.foldl (fun d p => onPort d p fun q => { q with tx := none }) d

/-- The package stops acting as holder and announces STANDBY (R639): `cause` is that of EV_HA_ROLE, `stale` the
STALE_CAUSE it then shows, `solo` whether solo resumption is open to it. The LEASE entry of a
handover still leaves on the peer link (R657). -/
def fence (d : Dev) (cause stale : Nat) (solo : Bool) : Dev :=
  withLease d fun d =>
    let d := { d with ha := { d.ha with
      holder := false
      fenced := true
      handover := false
      newer := false
      soloOk := solo
      sync := .stale
      cause := stale
      staleAt := d.now
      buffer := []
      q6 := if cause = 5 then d.ha.q6 else [] } }
    flushPends (setSlices (announceAll (raiseRole (dropQueued d) cause)) .retention)

/-- At takeover every learned MAC entry shows activity and age 0, and then the aging sweep starts (R655). -/
def touchMacs (d : Dev) : Dev :=
  onDies d (aliveDies d) fun x => { x with
    ageSweep := { at' := d.now, period := x.agePeriod, pos := 0 }
    mac := x.mac.map fun e => (e.1, if e.2.static then e.2 else { e.2 with act := true, age := 0 }) }

/-- The time of a pending action has come (R524, R655). -/
def actionPassed (d : Dev) (a : Action) : Bool := a.past || decide ((a.t : Int) * 65536 ≤ domainNow d a.domain)

/-- The package takes the lease with an EPOCH (R641, R655). -/
def takeLease (d : Dev) (cause epoch : Nat) : Dev :=
  withLease d fun d =>
    let d := { d with
      ha := { d.ha with
        holder := true
        sawRenew := true
        based := false
        undo := []
        epoch := epoch
        fenced := false
        soloOk := false
        ansAt := none
        handover := false
        peerHolds := false
        lastSnap := false
        touched := []
        buffer := []
        q6 := []
        recvd := d.ha.seq
        applied := d.ha.seq
        sync := if d.ha.sawPeer then .stale else .none
        cause := if d.ha.sawPeer then d.ha.cause else 0
        staleAt := d.now }
      actions := d.actions.map fun a => { a with
        missed := a.missed || actionPassed d a
        readyAt := max a.readyAt d.now } }
    let d := setSlices (touchMacs d) .on
    let d := releasePends (announceAll (raiseRole d cause)) (· == .handover) fun p => { p with status := stStale }
    sendRenewal (journal d (.lease epoch false))

/-- A holder that is demoted (R642). -/
def demote (d : Dev) : Dev := fence d 3 6 false

/-- What follows from a ROLE on a Spindle link of a paired package (R641 to R644). -/
def roleReceived (d : Dev) (p role epoch : Nat) : Dev :=
  if !d.ha.paired then d
  else
    let peer := isPeerPort d p
    let d := noteEpoch { d with ha := { d.ha with
      sawActive := d.ha.sawActive || role == 0
      activeAt := if role == 0 then some d.now else d.ha.activeAt } } epoch true
    let higher := newer epoch d.ha.epoch && (!peer || role == 0)
    let same := peer && role == 0 && epoch == d.ha.epoch && !d.ha.preferred
    if d.ha.holder && (higher || same) then noteEpoch (demote d) epoch true else d

end Sys2Proof.Machine
end

