-- ==== Sys2Proof/Machine/PortCmds.lean ====
section
/-! DEFINITION. The port and lane commands (R80 to R94, R731). -/

namespace Sys2Proof.Machine

/-- The lanes `p` to `p + w - 1` belong to no port with another lowest lane (R51, R91). -/
def lanesFree (d : Dev) (p w : Nat) : Bool :=
  d.ports.all fun e => e.1 == p || decide (e.1 + e.2.conf.width ≤ p) || decide (p + w ≤ e.1)
    || e.2.conf.width == 0

/-- Some lane from `p` upward, `w` of them, is one of the peer link (R631). -/
def touchesPeer (d : Dev) (p w : Nat) : Bool := d.ha.paired && decide (p ≤ 0x5F) && decide (0x5C < p + w)

/-- A slice with its first configured port comes ON, in RETENTION on a package without the lease; a slice without one is
OFF (R482, R654). -/
def fitSlice (d : Dev) (n s : Nat) (was : Bool) : Dev :=
  let used := (configured d).any fun p => dieOfPort p == n && sliceOfPort p == s
  if !used then onSlice d n s fun x => { x with pow := .off }
  else if was || (dieOf d n).parked || d.thermal then d
  else onSlice d n s fun x => { x with pow := if isActive d then .on else .retention, idleAt := d.now }

/-- A configuration is stored for a port and takes effect (R91): a quarantine continues under MODE 1 or 2, while the lanes
run as they did (R85). A port that bring-up has not started runs at no rate yet. -/
def configPort (d : Dev) (p : Nat) (c : PortConf) : Dev :=
  let n := dieOfPort p
  let s := sliceOfPort p
  let was := (configured d).any fun p => dieOfPort p == n && sliceOfPort p == s
  let d := onPort d p fun q => { q with ceiling := none }
  let quar := (portOf d p).link == .quarantine
  let store := fun d : Dev => onPort d p fun q => { q with conf := c, failRate := 0 }
  let fresh := fun d : Dev => onPort (store d) p fun q => { q with run := {}, rate := 0 }
  let d :=
    if c.mode = 0 then
      fresh (disablePort (if quar then endQuarantine d p false else d) p)
    else if quar then store (clearFlow d p)
    else startBringup (fresh (takeDown d p drPortDown)) p
  fitSlice d n s was

/-- PORT_CONFIG (R90, R91, R631). A wrong pair of PORT and WIDTH is found in WIDTH, the higher field (R550). -/
def specPortConfig (d : Dev) (p : BitVec 384) : CmdSpec :=
  let port := pf p 0 2
  let mode := pf p 2 1
  let w := pf p 3 1
  let rate := pf p 4 1
  let wOk := w == 1 || w == 2 || w == 4 || w == 8
  let flags := pf p 5 1
  let phy := phyType rate
  { opcode := 0x0201, kind := .w, keepers := [0, dieOfPort port],
    checks := [ckPort d 0 port, badIf 0 (touchesPeer d port 1 || !lanesFree d port 1), badIf 2 (mode > 2),
      badIf 3 (!wOk || localOf port % w != 0 || touchesPeer d port w || !lanesFree d port w),
      badIf 4 ((mode == 1 && decide (rate > 4)) || (mode == 2 && (phy.1 == 0 || phy.1 != w))),
      badIf 5 (decide (flags ≥ 4) || (bitOf flags 0 && mode != 2) || (bitOf flags 1 && !(mode == 2 && rate == 2))),
      badIf 6 (pf p 6 1 ≥ 2 ^ w), badIf 7 (pf p 7 1 ≥ 2 ^ w)],
    run := fun d => (configPort d port
      { mode := mode, width := w, rate := rate, flags := flags, txInv := pf p 6 1, rxInv := pf p 7 1 }, {}) }

def execPortConfig (c : Cmd) (s : State) : Host.Outcome State Fault Refusal :=
  onDev s fun d => runCmd (specPortConfig d c.params) c d

def powerCode : Power → Nat
  | .l0 => 0
  | .l1 => 1
  | .l2 => 2

/-- Link transitions of a port within the second before now (R91). -/
def recentTransitions (d : Dev) (q : Port) : Nat :=
  (q.transitions.filter fun t => decide (tickOf d - t < 781250000)).length

/-- PORT_STATUS of a configured port, or of a lane that is the lowest of none (R91, R731). HOLD_LEFT drops the fraction of a
millisecond (DESIGN CHOICE, log 56). A port of a parked die is shown as configured, with the values stored for it (DESIGN
CHOICE, log 32). -/
def portStatusBytes (d : Dev) (p : Nat) : List Byte :=
  let q := portOf d p
  if !isPort d p then
    let power := match portOfLane d p with
      | some o => powerCode (portOf d o).power
      | none => 2
    leBytes 1 6 ++ leBytes 1 0 ++ leBytes 1 0xFF ++ leBytes 1 power ++ leBytes 12 0
  else
    let left := if q.link = .quarantine then (q.quarUntil - d.now) / ms else 0
    leBytes 1 (linkCode q.link) ++ leBytes 1 (rateShown q)
      ++ leBytes 1 (if q.conf.mode = 1 then q.ceiling.getD 0xFF else 0xFF) ++ leBytes 1 (powerCode q.power)
      ++ leBytes 1 (holdLevel d p) ++ leBytes 1 (recentTransitions d q) ++ leBytes 2 0 ++ leBytes 4 left ++ leBytes 4 0

/-- PORT_STATUS (R90, R91, R731). -/
def specPortStatus (d : Dev) (p : BitVec 384) : CmdSpec :=
  let port := pf p 0 2
  { opcode := 0x0202, kind := .r, any := true, keepers := [dieOfPort port], checks := [ckPort d 0 port],
    run := fun d => (d, okResult (portStatusBytes d port)) }

def execPortStatus (c : Cmd) (s : State) : Host.Outcome State Fault Refusal :=
  onDev s fun d => runCmd (specPortStatus d c.params) c d

/-- A port that PORT_RETRAIN and PORT_TEST act on: configured, and not disabled with its die or, in thermal stop, with the
package (R489, R721, R731; DESIGN CHOICE, log 32). -/
def portActs (d : Dev) (p : Nat) : Bool := isPort d p && portsRun d p

/-- Bring-up restarts without a ceiling; on a quarantined port when the quarantine ends (R92). -/
def retrainPort (d : Dev) (p : Nat) : Dev :=
  let d := onPort d p fun q => { q with ceiling := none }
  if (portOf d p).link = .quarantine then d else restartBringup d p

/-- PORT_RETRAIN (R92, R731). -/
def specPortRetrain (d : Dev) (p : BitVec 384) : CmdSpec :=
  let port := pf p 0 2
  { opcode := 0x0203, kind := .w, keepers := [0, dieOfPort port],
    checks := [ckPort d 0 port, badIf 0 (!portActs d port)],
    run := fun d => (retrainPort d port, {}) }

def execPortRetrain (c : Cmd) (s : State) : Host.Outcome State Fault Refusal :=
  onDev s fun d => runCmd (specPortRetrain d c.params) c d

/-- A port enters test mode: out of service as by MODE 0, in L0, with generator and checker running (R80, R82, R93). -/
def enterTest (d : Dev) (p rate : Nat) : Dev :=
  let d := if (portOf d p).link = .quarantine then endQuarantine d p false else d
  let d := setLink (onPort (applyPolarity (takeDown d p drPortDown) p) p fun q => { q with power := .l0, testRate := rate }) p .test
  let d := (portLanes d p).foldl (fun d l => onLane d l fun x => { x with
    prbsLock := false
    prbsErrors := 0
    prbsAt := 0
    prbsGen := -1 }) d
  emit d (.prbs p rate ((portLanes d p).map fun l => ((laneOf d l).prbsGen, (laneOf d l).txInv)))

/-- Test mode ends: bring-up restarts, and the ceiling stays (R63, R93). On a port that is not in test mode nothing
happens (DESIGN CHOICE, log 56). -/
def leaveTest (d : Dev) (p : Nat) : Dev := if (portOf d p).link = .test then restartBringup d p else d

/-- What ACTION 2 reports of a lane: ERRORS, ELAPSED and LOCK (R93). On a port that is not in test mode all are 0 (DESIGN
CHOICE, log 56). -/
def prbsBytes (d : Dev) (p l : Nat) : List Byte :=
  let x := laneOf d l
  if (portOf d p).link = .test && x.prbsLock then
    leBytes 8 x.prbsErrors ++ leBytes 4 (min ((d.now - x.prbsAt) / us) 0xFFFFFFFF) ++ leBytes 1 1
  else leBytes 13 0

/-- PORT_TEST (R82, R90, R93, R731). RATE is judged for ACTION 1 and LANE for ACTION 2. -/
def specPortTest (d : Dev) (p : BitVec 384) : CmdSpec :=
  let port := pf p 0 2
  let act := pf p 2 1
  let lane := pf p 4 1
  { opcode := 0x0204, kind := .w, keepers := [0, dieOfPort port],
    checks := [ckPort d 0 port, badIf 0 (!portActs d port), badIf 2 (act > 2),
      badIf 3 (act == 1 && decide (pf p 3 1 > 4)), badIf 4 (act == 2 && decide (lane ≥ (portOf d port).conf.width)), resB p 5 3],
    run := fun d =>
      if act = 0 then (leaveTest d port, {})
      else if act = 1 then (enterTest d port (pf p 3 1), {})
      else (d, okResult (prbsBytes d port (port + lane))) }

def execPortTest (c : Cmd) (s : State) : Host.Outcome State Fault Refusal :=
  onDev s fun d => runCmd (specPortTest d c.params) c d

/-- Lane rate code at which a port's lanes run now (R85, R93). -/
def laneCodeNow (d : Dev) (p : Nat) : Nat := if (portOf d p).link = .test then (portOf d p).testRate else laneCode d p

/-- The lane is in L0 (R83, R94). -/
def eyeReady (d : Dev) (l : Nat) : Bool := match portOfLane d l with
  | none => false
  | some p => (portOf d p).power == .l0 && alive d (dieOfPort p)

/-- The lane runs NRZ (R55, R66). -/
def nrzLane (d : Dev) (l : Nat) : Bool := match portOfLane d l with
  | none => false
  | some p => decide (laneCodeNow d p < 2)

/-- PORT_EYE_SCAN (R83, R90, R94): `cdr` is whether the CDR of the lane is locked, `errors` the measured count, `held`
whether the lane stayed in L0 with its CDR locked for the dwell. When it did not, the field found wrong is LANE, at entry offset
16 (R550; DEDUCED, log 32). -/
def specPortEyeScan (d : Dev) (p : BitVec 384) (cdr : Bool) (errors : BitVec 64) (held : Bool) : CmdSpec :=
  let l := pf p 0 2
  let eye := pf p 2 1
  let phase := ps p 3 1
  let level := ps p 4 1
  let dwell := pf p 5 1
  { opcode := 0x0205, kind := .r, any := true, keepers := [dieOfPort l],
    checks := [ckPort d 0 l, badIf 0 (!(eyeReady d l && cdr)), badIf 2 (decide (eye > 2) || (eye != 0 && nrzLane d l)),
      badIf 3 (decide (phase < -32) || decide (phase > 31)), badIf 4 (decide (level < -63) || decide (level > 63)),
      badIf 5 (decide (dwell < 20) || decide (dwell > 32)), resB p 6 2],
    run := fun d => (d, if held then okResult (leBytes 8 errors.toNat) else { status := stBadArg, detail := 16 }) }

def execPortEyeScan (c : Cmd) (eye : EyeReading) (held : Bool) (s : State) : Host.Outcome State Fault Refusal :=
  onDev s fun d => runCmd (specPortEyeScan d c.params eye.cdr eye.errors held) c d

/-- PORT_RELEASE ends a quarantine at once (R89, R731). -/
def specPortRelease (d : Dev) (p : BitVec 384) : CmdSpec :=
  let port := pf p 0 2
  { opcode := 0x0206, kind := .w, keepers := [0, dieOfPort port], checks := [ckPort d 0 port],
    run := fun d => (if isPort d port && (portOf d port).link == .quarantine then endQuarantine d port true else d, {}) }

def execPortRelease (c : Cmd) (s : State) : Host.Outcome State Fault Refusal :=
  onDev s fun d => runCmd (specPortRelease d c.params) c d

end Sys2Proof.Machine
end

