-- ==== Sys2Proof/Machine/Buffers.lean ====
section
/-! DEFINITION. The buffer commands (R375 to R377). -/

namespace Sys2Proof.Machine

/-- QOS_BUF_SET: EGRESS_POOL of the named dies (R375). -/
def specQosBufSet (d : Dev) (p : BitVec 384) : CmdSpec :=
  let mask := pf p 0 1
  let k := pf p 4 4
  { opcode := 0x0701, kind := .w, keepers := 0 :: bitList 8 mask,
    checks := [ckMask d 0 mask, resB p 1 3, badIf 4 (decide (k < 4096) || decide (k > 65536) || k % 16 != 0)],
    run := fun d => ((bitList 8 mask).foldl noteFree (onDies d (bitList 8 mask) fun x => { x with comb := { x.comb with egressPool := k } }), {}) }

def execQosBufSet (c : Cmd) (s : State) : Host.Outcome State Fault Refusal :=
  onDev s fun d => runCmd (specQosBufSet d c.params) c d

/-- An ALPHA code that may be stored (R356, R375). -/
def alphaOk (a : Nat) : Bool := decide (a ≤ 10) || a == 15

/-- After a change of profiles or bindings, VOQs in SPILL are judged again (R376). -/
def settleSpills (d : Dev) : Dev := ((d.voqs.filter fun e => e.2.spill).map (·.1)).foldl settleVoq d

/-- QOS_BUF_PROFILE_SET (R375, R376). Fields of a wrong pair are found in SPILL_OFF, the higher one. -/
def specQosBufProfileSet (d : Dev) (p : BitVec 384) : CmdSpec :=
  let on := pf p 8 4
  let off := pf p 12 4
  let th := pf p 16 2
  { opcode := 0x0702, kind := .w, keepers := aliveDies d,
    checks := [resv p 0 1 0xE0, badIf 1 (!alphaOk (pf p 1 1)), resv p 2 1 0xFE, resB p 3 1, badIf 4 (pf p 4 4 > 65536),
      badIf 8 (decide (on < 48) || decide (on > 196608)), badIf 12 (decide (off < 32) || decide (off + 16 > on)),
      badIf 16 (decide (th < 64) || decide (th > 4096) || th % 16 != 0), resB p 18 2, badIf 20 (pf p 20 4 > 4194304)],
    run := fun d =>
      let b : BufProfile :=
        { alpha := pf p 1 1, minCells := pf p 4 4, spillEn := bitOf (pf p 2 1) 0, spillOn := on, spillOff := off,
          readTh := th, storeMax := pf p 20 4 }
      (settleSpills (onTables d fun t => { t with bufs := kput t.bufs (pf p 0 1) b }), {}) }

def execQosBufProfileSet (c : Cmd) (s : State) : Host.Outcome State Fault Refusal :=
  onDev s fun d => runCmd (specQosBufProfileSet d c.params) c d

/-- The TARGET field of a VOQ at `off`: a port, or with MC a destination die (R375, R2). -/
def ckTarget (d : Dev) (off : Nat) (mc : Bool) (t : Nat) : Chk :=
  if mc then ⟨off, decide (t < 8) && !alive d t, decide (t ≥ 8)⟩ else ckPort d off t

/-- Bind the VOQs towards a target in the classes of a mask to a profile. -/
def bindAll (l : List ((Bool × Nat × Nat) × Nat)) (mc : Bool) (target mask profile : Nat) : List ((Bool × Nat × Nat) × Nat) :=
  (bitList 8 mask).foldl (fun l c => kput l (mc, target, c) profile) l

/-- QOS_VOQ_BIND (R375, R376). -/
def specQosVoqBind (d : Dev) (p : BitVec 384) : CmdSpec :=
  let mc := bitOf (pf p 2 1) 0
  let target := pf p 0 2
  { opcode := 0x0703, kind := .w, keepers := aliveDies d,
    checks := [ckTarget d 0 mc target, resv p 2 1 0xFE, badIf 3 (pf p 3 1 == 0), resv p 4 1 0xE0, resB p 5 3],
    run := fun d => (settleSpills (onTables d fun t => { t with bufBind := bindAll t.bufBind mc target (pf p 3 1) (pf p 4 1) }), {}) }

def execQosVoqBind (c : Cmd) (s : State) : Host.Outcome State Fault Refusal :=
  onDev s fun d => runCmd (specQosVoqBind d c.params) c d

/-- QOS_TEN_BUF_SET: ALPHA_T of a tenant (R357, R375). -/
def specQosTenBufSet (d : Dev) (p : BitVec 384) : CmdSpec :=
  { opcode := 0x0704, kind := .w, keepers := aliveDies d,
    checks := [resv p 0 2 0xFC00, badIf 2 (!alphaOk (pf p 2 1)), resB p 3 1],
    run := fun d => (onTables d fun t => { t with tenAlpha := kput t.tenAlpha (pf p 0 2) (pf p 2 1) }, {}) }

def execQosTenBufSet (c : Cmd) (s : State) : Host.Outcome State Fault Refusal :=
  onDev s fun d => runCmd (specQosTenBufSet d c.params) c d

/-- QOS_BUF_STATUS (R375, R377). -/
def specQosBufStatus (d : Dev) (p : BitVec 384) : CmdSpec :=
  let n := pf p 0 1
  { opcode := 0x0705, kind := .r, any := true, wide := true, keepers := [n], checks := [ckDie d 0 n],
    run := fun d =>
      let x := dieOf d n
      let b := x.comb
      let spilling := (d.voqs.filter fun e => e.1.die == n && e.2.spill).length
      (d, okResult (leBytes 4 (listedCells b) ++ leBytes 4 (freeCells b) ++ leBytes 4 (sharedFree b)
        ++ leBytes 2 (poolLeft b 1) ++ leBytes 2 (poolLeft b 2) ++ leBytes 4 (poolLeft b 3) ++ leBytes 4 (freePages x)
        ++ leBytes 4 (4194304 - x.pagesRetired.length) ++ leBytes 2 spilling)) }

def execQosBufStatus (c : Cmd) (s : State) : Host.Outcome State Fault Refusal :=
  onDev s fun d => runCmd (specQosBufStatus d c.params) c d

/-- QOS_VOQ_STATUS (R375, R377). -/
def specQosVoqStatus (d : Dev) (p : BitVec 384) : CmdSpec :=
  let n := pf p 0 1
  let mc := bitOf (pf p 1 1) 0
  let q : VoqKey := ⟨n, mc, pf p 2 2, pf p 4 1⟩
  { opcode := 0x0706, kind := .r, any := true, keepers := [n],
    checks := [ckDie d 0 n, resv p 1 1 0xFE, ckTarget d 2 mc (pf p 2 2), badIf 4 (pf p 4 1 > 7), resB p 5 3],
    run := fun d =>
      let v := voqOf d q
      (d, okResult (leBytes 4 (headCells d v) ++ leBytes 4 (tailCells d v) ++ leBytes 4 v.pages.length
        ++ leBytes 1 (atBit 0 v.spill) ++ leBytes 1 (kget (dieOf d n).tab.bufBind (mc, q.target, q.tc) 0))) }

def execQosVoqStatus (c : Cmd) (s : State) : Host.Outcome State Fault Refusal :=
  onDev s fun d => runCmd (specQosVoqStatus d c.params) c d

end Sys2Proof.Machine
end

