-- ==== Sys2Proof/Machine/DieLoss.lean ====
section
/-! DEFINITION. The loss of a die (R48, R49, R409 to R413, R561, R617). -/

namespace Sys2Proof.Machine

/-- A copy that has only partly arrived from a lost die is dropped on its egress die; one in transmission is stomped, and
one of which nothing has arrived is lost (R410). -/
def losePartial (d : Dev) (c : Copy) : Dev :=
  if !c.arrived then forgetCopy d c
  else if isSending d c then
    onCopy (if c.bad.isSome then d else countCopyDrop d c drDieLost 5) c.id fun c => { c with bad := some (drDieLost, 5), ended := true, handed := true }
  else dropCopy d c drDieLost

/-- A multicast chain, or a slow-path frame or copy, that has only partly arrived on die `e` from a lost die (R410). -/
def loseChain (d : Dev) (m : McChain) : Dev :=
  let f := frameOf d m.fid
  let d := if m.slow then
      if !m.arrived then d else if f.kind = .received then dropFrameOn d m.die f.id drDieLost else dropCopyOn d m.die f drDieLost
    else if m.arrived && (copiesOf d m.fid).all (fun c => c.die != m.die) then
      countDrop d m.die (some f.port) (dropTenant f) drDieLost (sizeOf' f) else d
  abortChain d m.die m.fid

/-- What has only partly reached a surviving die from die `x`, or on a path that relays through it, is lost there (R397,
R410). -/
def losePartials (d : Dev) (x : Nat) : Dev :=
  let cs := d.copies.filter fun c =>
    let f := frameOf d c.fid
    c.die != x && c.die != f.die && !c.ended && (f.die == x || c.via == 8 + x)
  let ms := (d.dies.flatMap (·.mcIn)).filter fun m =>
    let f := frameOf d m.fid
    m.die != x && m.die != f.die && !m.ended && (f.die == x || m.via == 8 + x)
  cs.foldl losePartial (ms.foldl loseChain d)

/-- Copies, chains and frames that die `x` held are lost with it, uncounted (R410). -/
def loseHeld (d : Dev) (x : Nat) : Dev :=
  let d := (d.copies.filter fun c => c.die == x).foldl forgetCopy d
  let ms := (dieOf d x).mcIn.map (·.fid)
  let d := onDie d x fun y => { y with mcIn := [], residue := [], puntQ := [], tapQ := [], keeperQ := [] }
  let d := ms.foldl settle d
  let mine := (d.frames.filter fun f => f.die == x).map (·.id)
  let d := { d with
    copies := d.copies.map fun c => if mine.contains c.fid then { c with handed := true } else c
    frames := d.frames.map fun f => if f.die = x then
      { f with
        stage := .gone
        dropped := true
        chain := []
        len := some (sizeOf' f) } else f }
  let d := onDies d (List.range 8) fun y => { y with
    mcIn := y.mcIn.map fun m => if mine.contains m.fid then { m with handed := true } else m }
  mine.foldl settle d

/-- Credits that die `x` held are void, and their cells return to their pools (R410). -/
def voidCredits (d : Dev) (x : Nat) : Dev :=
  let l := d.voqs.filter fun e => e.1.die == x
  let d := { d with voqs := d.voqs.filter fun e => e.1.die != x }
  l.foldl (fun d e => returnCells (voqDie e.1) e.2.room d) d

/-- Flits that die `x` sent or relays, or that lead to it, are gone. -/
def purgeFlits (d : Dev) (x : Nat) : Dev :=
  let keep := fun l : List Flit => l.filter fun g => g.src != x && g.dst != x
  (List.range (dieCount d.part)).foldl (fun d n => onDie d n fun y =>
    let bridges := fun l : List (Nat × List Flit) =>
      if n = x then [] else (l.filter fun e => e.1 != x).map fun e => (e.1, keep e.2)
    { y with
      chans := (List.range 7).map fun j =>
        let c := y.chans.getD j {}
        { c with replay := if n = x || farDie d.part n j = some x then [] else keep c.replay }
      outq := bridges y.outq
      relays := bridges y.relays
      rxHold := if n = x then [] else y.rxHold.filter fun h => h.1 != x && h.2.src != x && h.2.dst != x }) d

/-- No bucket relays through die `x`, those of a drain in progress included; drains towards it are over (R410). -/
def withdrawPaths (d : Dev) (x : Nat) : Dev :=
  let clean := fun l : List Nat => l.map fun c => if c = 8 + x then 0 else c
  onDies d (List.range 8) fun y => { y with
    paths := y.paths.map fun e => (e.1, clean e.2)
    draining := (y.draining.filter fun e => e.1 != x).map fun e => (e.1, clean e.2) }

/-- The ports of die `x` are DOWN, without events (R410, R411). -/
def portsLost (d : Dev) (x : Nat) : Dev :=
  ((d.ports.map (·.1)).filter fun p => dieOfPort p == x).foldl (fun d p => onPort (clearFlow d p) p fun q => { q with
    link := .down
    phase := .idle
    rx := .out
    rxFrame := none
    tx := none
    next := none
    holdList := []
    sent := 0 }) d

/-- The mirror die (R617): the lowest die other than d0 that is not lost. -/
def mirrorDie (d : Dev) : Option Nat := (aliveDies d).find? (· != 0)

/-- Die `x` is declared lost (R48, R49, R409 to R411, R561, R617, R646, R650). When it held the mirror from which d0 is
restarting, d0 reports a fatal fault of its own (R617). -/
def dieLost (d : Dev) (x : Nat) : Dev :=
  if !alive d x then d
  else
    let wasMirror := mirrorDie d == some x
    let d := onDie d x fun y => { y with lost := true }
    if x = 0 then { d with run := .lost }
    else
      let d := losePartials d x
      let d := ((d.voqs.filter fun e => e.1.die != x && voqDie e.1 == x).map (·.1)).foldl (fun d q => flushVoq d q drDieLost) d
      let d := withdrawPaths (purgeFlits (loseHeld (voidCredits d x) x) x) x
      let d := portsLost d x
      let d := if wasMirror && (mirrorDie d).isSome then { d with mirrorOk := false } else d
      let d := if wasMirror && (dieOf d 0).keeper == .restarting then { onDie d 0 fun y => { y with lost := true } with run := .lost } else d
      let d := raise d 0 evDieLost (leBytes 1 x)
      let d := if d.ha.holder then journal d (.dieLost x) else becomeStale d 5
      releasePends d (fun w => match w with
        | .drain a b => a == x || b == x
        | _ => false) id

/-- The channels of a die that lead to dies that are not lost. -/
def liveChans (d : Dev) (n : Nat) : List Nat := (List.range 7).filter fun j => (farDie d.part n j).any (alive d)

/-- HEARTBEAT_SILENCE: no channel of a die has delivered a heartbeat for 10 ms, and d0 declares it lost; the loss of d0
is the loss of the package (R49, R409, R412). -/
def execHeartbeatSilence (die : Nat) (s : State) : Host.Outcome State Fault Refusal :=
  onDev s fun d =>
    let l := liveChans d die
    if !l.isEmpty && l.all fun j => expired d (chanOf d die j).lastOk (10 * ms) then dieLost d die else d

/-- HEARTBEAT_LOSS_STOP: a die other than d0 that has received no heartbeat for 10 ms stops transmitting data on every
port (R409, R413). -/
def execHeartbeatLossStop (die : Nat) (s : State) : Host.Outcome State Fault Refusal :=
  onDev s fun d => if alive d die && die != 0 && expired d (dieOf d die).hbAt (10 * ms) then onDie d die fun x => { x with txStop := true } else d

end Sys2Proof.Machine
end

