-- ==== Sys2Proof/Machine/System.lean ====
section
/-! DEFINITION. The SYS_ commands and unknown opcodes (R535 to R575). -/

namespace Sys2Proof.Machine

/-- SYS_NOP does nothing (R574). -/
def specSysNop : CmdSpec := { opcode := 0x0101, kind := .r, any := true, run := fun d => (d, {}) }

def execSysNop (c : Cmd) (s : State) : Host.Outcome State Fault Refusal := onDev s (runCmd specSysNop c)

/-- The dies of the part that are lost, as a mask. -/
def lostMask (d : Dev) : Nat := maskOf (dieCount d.part) fun n => (dieOf d n).lost

/-- SYS_INFO (R574): part, dies, lost dies, firmware version, ROLE and time domains. -/
def specSysInfo : CmdSpec :=
  { opcode := 0x0102, kind := .r, any := true,
    run := fun d => (d, okResult (leBytes 2 (partCode d.part) ++ leBytes 1 (dieCount d.part) ++ leBytes 1 (lostMask d)
      ++ leBytes 4 d.fwVersion ++ leBytes 1 (roleOf d) ++ leBytes 1 (domainCount d.part))) }

def execSysInfo (c : Cmd) (s : State) : Host.Outcome State Fault Refusal := onDev s (runCmd specSysInfo c)

/-- SYS_EVENT_MASK (R573). HOME is judged when SET_HOME is set and CODE when SET_EVENT is set. -/
def specSysEventMask (d : Dev) (p : BitVec 384) : CmdSpec :=
  let mask := pf p 0 1
  let setHome := bitOf (pf p 1 1) 0
  let setEvent := bitOf (pf p 1 1) 1
  let enable := bitOf (pf p 1 1) 2
  let home := pf p 2 1
  let code := pf p 4 2
  { opcode := 0x0103, kind := .l, keepers := 0 :: bitList 8 mask,
    checks := [ckMask d 0 mask, resv p 1 1 0xF8, badIf 1 (!setHome && !setEvent),
      if setHome then ckDie d 2 home else badIf 2 false, resB p 3 1,
      badIf 4 (setEvent && (!eventCodes.contains code || (code == evLost && !enable))), resB p 6 2],
    run := fun d => (onDies d (bitList 8 mask) fun x =>
      let x := if setHome then { x with home := home } else x
      if !setEvent then x
      else if enable then { x with masked := x.masked.filter (· != code) }
      else { x with masked := code :: x.masked.filter (· != code) }, {}) }

def execSysEventMask (c : Cmd) (s : State) : Host.Outcome State Fault Refusal :=
  onDev s fun d => runCmd (specSysEventMask d c.params) c d

/-- STATE of SYS_DIE_STATUS: a lost die before a restarting one before a parked one. -/
def dieState (x : Die) : Nat := if x.lost then 2 else if x.keeper = .restarting then 1 else if x.parked then 3 else 0

/-- SYS_DIE_STATUS, answered by d0 for a die that is restarting or lost, and by the die itself else (R411, R538, R573). -/
def specSysDieStatus (d : Dev) (p : BitVec 384) : CmdSpec :=
  let n := pf p 0 1
  { opcode := 0x0104, kind := .r, any := true, keepers := [if dieState (dieOf d n) = 1 || dieState (dieOf d n) = 2 then 0 else n],
    checks := [⟨0, decide (n < 8) && !hasDie d n, decide (n ≥ 8)⟩],
    run := fun d =>
      let x := dieOf d n
      (d, okResult (leBytes 1 (dieState x) ++ leBytes 1 (atBit 0 x.mbHalt) ++ leBytes 2 0 ++ leBytes 4 x.restarts
        ++ leBytes 8 x.lastRestart)) }

def execSysDieStatus (c : Cmd) (s : State) : Host.Outcome State Fault Refusal :=
  onDev s fun d => runCmd (specSysDieStatus d c.params) c d

/-- The opcodes of the command index (R574). -/
def knownOpcodes : List Nat :=
  [0x0101, 0x0102, 0x0103, 0x0104, 0x0201, 0x0202, 0x0203, 0x0204, 0x0205, 0x0206, 0x0301, 0x0302, 0x0303, 0x0304,
   0x0305, 0x0401, 0x0402, 0x0403, 0x0404, 0x0405, 0x0406, 0x0407, 0x0408, 0x0409, 0x040A, 0x040B, 0x040C, 0x0501,
   0x0502, 0x0503, 0x0504, 0x0505, 0x0506, 0x0601, 0x0602, 0x0603, 0x0604, 0x0605, 0x0606, 0x0607]
  ++ [0x0701, 0x0702, 0x0703, 0x0704, 0x0705, 0x0706, 0x0707, 0x0708, 0x0709, 0x070A, 0x070B, 0x070C, 0x070D, 0x070E,
   0x070F, 0x0710, 0x0711, 0x0712, 0x0720, 0x0721, 0x0722, 0x0723, 0x0724, 0x0801, 0x0802, 0x0803, 0x0804, 0x0805,
   0x0806, 0x0810, 0x0811, 0x0812]
  ++ [0x0901, 0x0902, 0x0903, 0x0904, 0x0A01, 0x0A02, 0x0A03, 0x0A04, 0x0A05, 0x0B01, 0x0B02, 0x0B03, 0x0B04, 0x0B05,
   0x0B06]

/-- The opcodes that the rings of d1 to d7 accept (R537, R574). -/
def anyRingOpcodes : List Nat :=
  [0x0101, 0x0102, 0x0104, 0x0202, 0x0205, 0x0302, 0x0304, 0x0305, 0x0404, 0x0408, 0x040A, 0x040C, 0x0502, 0x0602,
   0x0605, 0x0607, 0x0705, 0x0706, 0x0708, 0x070A, 0x070E, 0x0722, 0x0723, 0x0724, 0x0801, 0x0805, 0x0806, 0x0812,
   0x0902, 0x0A02, 0x0A04, 0x0B01, 0x0B04, 0x0B05]

/-- The ring accepts the opcode (R537, R681). -/
def accepted (d : Dev) (die opcode : Nat) : Bool :=
  knownOpcodes.contains opcode && (die == 0 || anyRingOpcodes.contains opcode)
    && (d.run != .recovery || recoveryOps.contains opcode)

/-- A fetched command whose opcode is unknown or not accepted on the ring completes with BAD_ARG and DETAIL 0 (R537,
R550). An entry whose opcode the ring accepts is a command of another row. -/
def execUnknownCommand (opcode : BitVec 16) (c : Cmd) (s : State) : Host.Outcome State Fault Refusal :=
  onDev s fun d =>
    if accepted d c.die opcode.toNat || !canStart d c then d
    else complete (fetchCmd d c) c opcode.toNat 0 { status := stBadArg }

end Sys2Proof.Machine
end

