-- ==== Sys2Proof/Machine/FabricCmds.lean ====
section
/-! DEFINITION. The fabric commands, the drain of a path, and the state of bridge channels (R393, R399, R415 to R418). -/

namespace Sys2Proof.Machine

/-- Checks of the pair (SRC, DST); a pair of equal dies is found wrong in DST, the higher field (R415, R416, R550). -/
def pairChecks (d : Dev) (p : BitVec 384) : List Chk :=
  [ckDie d 0 (pf p 0 1), ckDie d 1 (pf p 1 1), badIf 1 (pf p 0 1 == pf p 1 1), resB p 2 6, ckAlign 8 64 (pf p 8 8)]

/-- A path code is allowed from `a` to `e`: direct, or through a third die (R396, R416). -/
def pathCodeOk (a e c : Nat) : Bool := c == 0 || (decide (8 ≤ c) && decide (c < 16) && c != 8 + a && c != 8 + e)

/-- The path table of a pair (R396). -/
def pathTable (d : Dev) (a e : Nat) : List Nat := padNat 64 (kget (dieOf d a).paths e [])
where
  /-- `n` codes, missing ones direct. -/
  padNat (n : Nat) (l : List Nat) : List Nat := (l ++ List.replicate (n - l.length) 0).take n

/-- QOS_PATH_SET starts the drain of the pair and completes when its VOQs send again (R399, R415, R416). -/
def specQosPathSet (d : Dev) (p : BitVec 384) (table : List Byte) : CmdSpec :=
  let a := pf p 0 1
  let e := pf p 1 1
  let codes := (padTo 64 table).map (·.toNat)
  { opcode := 0x0707, kind := .w, keepers := [0, a, e], record := padTo 64 table,
    checks := pairChecks d p ++ [⟨8, codes.any fun c => decide (8 ≤ c) && decide (c < 16) && !alive d (c - 8),
      codes.any fun c => !pathCodeOk a e c⟩],
    run := fun d => (onDie d a fun x => { x with draining := x.draining ++ [(e, codes)] }, { wait := some (.drain a e) }) }

def execQosPathSet (c : Cmd) (table : List Byte) (s : State) : Host.Outcome State Fault Refusal :=
  onDev s fun d => runCmd (specQosPathSet d c.params table) c d

/-- QOS_PATH_GET writes the path table of a pair to TABLE (R416). -/
def specQosPathGet (via : Nat) (d : Dev) (p : BitVec 384) : CmdSpec :=
  { opcode := 0x0708, kind := .r, any := true, keepers := [pf p 0 1, pf p 1 1], checks := pairChecks d p,
    run := fun d => (hostWrite d via .pf0 (pf p 8 8) ((pathTable d (pf p 0 1) (pf p 1 1)).map (BitVec.ofNat 8)), {}) }

def execQosPathGet (c : Cmd) (s : State) : Host.Outcome State Fault Refusal :=
  onDev s fun d => runCmd (specQosPathGet c.die d c.params) c d

/-- CT_EN of a port, when its die is among `l` (R415, R417, R731). -/
def applyQosCtSet (l : List Nat) (p : BitVec 384) (d : Dev) : Dev :=
  if !l.contains (dieOfPort (pf p 0 2)) then d
  else onPort d (pf p 0 2) fun q => { q with set := { q.set with ctEn := bitOf (pf p 2 1) 0 } }

/-- QOS_CT_SET. -/
def specQosCtSet (d : Dev) (p : BitVec 384) : CmdSpec :=
  { opcode := 0x0709, kind := .w, keepers := [0, dieOfPort (pf p 0 2)],
    checks := [ckPort d 0 (pf p 0 2), resv p 2 1 0xFE, resB p 3 5], run := fun d => (applyQosCtSet (aliveDies d) p d, {}) }

def execQosCtSet (c : Cmd) (s : State) : Host.Outcome State Fault Refusal :=
  onDev s fun d => runCmd (specQosCtSet d c.params) c d

/-- CHANNEL of QOS_FABRIC_STATUS: a channel to a lost die reads failed (R415). -/
def chanCode (d : Dev) (n j : Nat) : Nat := match farDie d.part n j with
  | none => 0
  | some m => if !alive d m then 3 else match (chanOf d n j).st with
    | .unused => 0
    | .up => 1
    | .retraining => 2
    | .failed => 3

/-- QOS_FABRIC_STATUS (R415, R418). -/
def specQosFabricStatus (d : Dev) (p : BitVec 384) : CmdSpec :=
  let n := pf p 0 1
  { opcode := 0x070A, kind := .r, any := true, keepers := [n], checks := [ckDie d 0 n],
    run := fun d =>
      let ports := (d.ports.map (·.1)).filter fun p => dieOfPort p == n
      (d, okResult ((List.range 7).flatMap (fun j => leBytes 1 (chanCode d n j)) ++ leBytes 1 0 ++ leBytes 1 (lostMask d)
        ++ leBytes 3 0 ++ leBytes 4 (ports.map (committed d)).sum)) }

def execQosFabricStatus (c : Cmd) (s : State) : Host.Outcome State Fault Refusal :=
  onDev s fun d => runCmd (specQosFabricStatus d c.params) c d

/- The drain (R399). -/

/-- No flit from `a` to `e` is on its way, and every stream between them has wholly left `a` and reached `e`. -/
def drained (d : Dev) (a e : Nat) : Bool :=
  let hit := fun l : List Flit => l.any fun g => g.src == a && g.dst == e
  (d.dies.all fun x => (x.chans.all fun c => !hit c.replay) && !hit (x.rxHold.map (·.2))
      && (x.outq ++ x.relays).all fun e => !hit e.2)
    && (d.copies.all fun c => c.die != e || c.handed || (frameOf d c.fid).die != a)
    && ((dieOf d e).mcIn.all fun m => m.handed || (frameOf d m.fid).die != a)

/-- The oldest completion that waits for the drain of a pair may be written. -/
def releaseDrain (d : Dev) (a e : Nat) : Dev :=
  let rec go : List Pend → List Pend
    | [] => []
    | p :: r => if p.wait = some (.drain a e) then { p with wait := none } :: r else p :: go r
  flushPends { d with pends := go d.pends }

/-- PATH_DRAIN_COMPLETE: every flit that `src` sent towards `dst` has arrived; the new table is written, the VOQs send
again, and the command completes (R399, R416). -/
def execPathDrainComplete (src dst : Nat) (s : State) : Host.Outcome State Fault Refusal :=
  onDev s fun d =>
    match (dieOf d src).draining.find? fun e => e.1 == dst with
    | none => d
    | some (_, codes) =>
      if !alive d src || !drained d src dst then d
      else
        let d := onDie d src fun x => { x with
          draining := x.draining.eraseP fun e => e.1 == dst
          paths := kput x.paths dst codes }
        releaseDrain (bumpDie d src cntPathRehash 1) src dst

/- Channels (R389, R393). -/

/-- The channel exists and leads to a die that is not lost. -/
def chanLive (d : Dev) (n j : Nat) : Bool := alive d n && (farDie d.part n j).any (alive d)

/-- BRIDGE_RETRAIN_DONE: a die's end of a channel has retrained; it replays from the oldest unacknowledged flit (R393). -/
def execBridgeRetrainDone (die channel : Nat) (s : State) : Host.Outcome State Fault Refusal :=
  onDev s fun d =>
    match farDie d.part die channel with
    | none => d
    | some m =>
      if !chanLive d die channel || (chanOf d die channel).st != .retraining then d
      else
        let d := onChan d die channel fun c => { c with st := .up, nak := false, tries := 0, lastOk := d.now }
        let d := bumpDie d die (cntBridgeRetrain + channel) 1
        feed (raise d die evBridgeRetrain (leBytes 1 channel)) die m

/-- BRIDGE_CHANNEL_LOCK_LOSS: a channel that loses lock starts retraining and keeps its replay buffer (R393). -/
def execBridgeChannelLockLoss (die channel : Nat) (s : State) : Host.Outcome State Fault Refusal :=
  onDev s fun d =>
    if !chanLive d die channel || (chanOf d die channel).st != .up then d else retrain d die channel

/-- The flits of a failed channel are dealt again to the other channels of its bridge, ahead of those not yet dealt; they keep
their places in the order (R389, R397). -/
def redeal (d : Dev) (n j m : Nat) : Dev :=
  let l := (chanOf d n j).replay
  let d := onChan d n j fun c => { c with replay := [] }
  feed (onDie d n fun x => { x with outq := kput x.outq m (l ++ kget x.outq m []) }) n m

/-- An end of a channel has failed. -/
def failEnd (d : Dev) (n j : Nat) : Dev :=
  onChan d n j fun c => { c with st := .failed, nak := false, tries := 0, failAt := d.now }

/-- The bridge between two dies has failed: all of its channels have (R393). -/
def bridgeFailed (d : Dev) (n e : Nat) : Bool := (bridgeChans d n e).all fun j => (chanOf d n j).st == .failed

/-- The moment at which a failed bridge failed (R393). -/
def bridgeFailAt (d : Dev) (n e : Nat) : Nat := ((bridgeChans d n e).map fun j => (chanOf d n j).failAt).foldl max 0

/-- Every bridge of die `x` has failed within 10 ms of the moment `t`, or may yet, since it delivers no heartbeat: the die has
fallen silent (R409; DEDUCED, log 60). -/
def spanSilent (d : Dev) (t x : Nat) : Bool :=
  ((aliveDies d).filter (· != x)).all fun e =>
    if bridgeFailed d x e then
      let f := bridgeFailAt d x e
      decide (f ≤ t + 10 * ms) && decide (t ≤ f + 10 * ms)
    else (bridgeChans d x e).all fun j => (chanOf d x j).st == .failed || decide ((chanOf d x j).lastOk + us < d.now)

/-- A failed bridge makes its higher-numbered die lost, unless every bridge of one of its dies fails within the same 10 ms: that
die is declared for its silence (R409). -/
def judgeBridge (d : Dev) (a b : Nat) : Dev :=
  if !alive d a || !alive d b || !bridgeFailed d a b then d
  else
    let t := bridgeFailAt d a b
    if spanSilent d t a || spanSilent d t b then d else dieLost d (max a b)

/-- The failed bridges of a package are judged again (R409). -/
def judgeBridges (d : Dev) : Dev :=
  (aliveDies d).foldl (fun d a => ((aliveDies d).filter fun b => decide (a < b)).foldl (fun d b => judgeBridge d a b) d) d

/-- BRIDGE_CHANNEL_FAIL: a channel that has delivered no flit for 10 ms has failed, at both its ends. When others are left
its flits are dealt to them; else its bridge has failed (R393, R409). -/
def execBridgeChannelFail (die channel : Nat) (s : State) : Host.Outcome State Fault Refusal :=
  onDev s fun d =>
    let c := chanOf d die channel
    match farDie d.part die channel with
    | none => d
    | some m =>
      if !chanLive d die channel || (c.st != .up && c.st != .retraining) || !expired d c.lastOk (10 * ms) then d
      else
        let j := farChan d.part channel
        let d := failEnd (failEnd d die channel) m j
        let d := raise d die evBridgeFail (leBytes 1 channel)
        if bridgeFailed d die m then judgeBridge d die m
        else redeal (redeal d die channel m) m j die

/- Flits arrive (R389 to R394). -/

/-- A flit that die `die` takes in order on a channel from die `m`: it is acknowledged, and with it a heartbeat has come
(R392, R409). -/
def flitOk (d : Dev) (die m j : Nat) : Dev :=
  onDie (onChan d m j fun c => { c with nak := false, tries := 0, lastOk := d.now }) die fun x => { x with hbAt := d.now }

/-- A sequence number of the channel has been used and acknowledged by a control flit (R391). -/
def ctlOk (d : Dev) (m j : Nat) (l : List Nat) : Dev :=
  onChan d m j fun c => { c with seq := (c.seq + 1) % 4096, acked := (c.acked + 1) % 4096, ctl := d.now :: l }

/-- A flit with a parity error is discarded, and the sender replays from it; 16 replays in a row retrain the channel
(R392, R393). -/
def flitBad (d : Dev) (m j : Nat) : Dev :=
  let d := bumpDie (onChan d m j fun c => { c with nak := true, tries := c.tries + 1 }) m (cntBridgeReplay + j) 1
  if (chanOf d m j).tries ≥ 16 then retrain d m j else d

/-- FLIT_RX: the next flit of the far end's channel arrives: one of the Keepers' control channel, which goes
before data and takes at most 156 of the 15,625 flits of 10 µs, or the next data flit, or an idle flit when none is on its
way (R391 to R394). A taken data flit crosses the die's internal bus, where `busFails` transfers in a row fail parity and are
replayed; 16 are a fatal fault of the die (R602, R409). A die that is heard again is not the silent end of a failed bridge
(R409). -/
def execFlitRx (die channel : Nat) (flit : FlitSeen) (busFails : Nat) (s : State) : Host.Outcome State Fault Refusal :=
  onDev s fun d =>
    match farDie d.part die channel with
    | none => d
    | some m =>
      let j := farChan d.part channel
      if !alive d die || !alive d m || (chanOf d m j).st != .up || (chanOf d die channel).st != .up then d
      else
        let d := feed d m die
        let c := chanOf d m j
        let recent := c.ctl.filter fun t => !expired d t (10 * us)
        if flit.control && recent.length ≥ 156 then d
        else if !flit.parityOk then flitBad d m j
        else if flit.control then judgeBridges (ctlOk (flitOk d die m j) m j recent)
        else match c.replay with
          | [] => judgeBridges (flitOk d die m j)
          | g :: r =>
            let d := onChan (flitOk d die m j) m j fun c => { c with replay := r, acked := (c.acked + 1) % 4096 }
            let d := if busFails = 0 then d else bumpDie d die cntBusReplay (min busFails 16)
            if busFails ≥ 16 then dieLost d die
            else
              let d := onDie d die fun x => { x with rxHold := x.rxHold ++ [(m, g)] }
              judgeBridges (feed (deliver m die (dieOf d die).rxHold.length d) m die)

end Sys2Proof.Machine
end

