-- ==== Sys2Proof/Machine/Congestion.lean ====
section
/-! DEFINITION. The congestion and multicast commands, and the replication engine of a die (R419 to R425, R442 to R454). -/

namespace Sys2Proof.Machine

/- WRED (R419, R421, R452). -/

/-- Largest depth of a WRED profile, in cells (R452). -/
def wredTop : Nat := 67305472

/-- The WRED profile that a QOS_WRED_SET block gives. -/
def wredOfParams (p : BitVec 384) : Wred :=
  { enable := bitOf (pf p 2 1) 0, ecn := bitOf (pf p 2 1) 1, weight := pf p 3 1,
    minC := [pf p 4 4, pf p 12 4, pf p 20 4], maxC := [pf p 8 4, pf p 16 4, pf p 24 4],
    pmax := [pf p 28 2, pf p 30 2, pf p 32 2] }

def applyQosWredSet (l : List Nat) (p : BitVec 384) (d : Dev) : Dev :=
  onDies d ((bitList 8 (pf p 0 1)).filter l.contains) fun x => { x with wreds := kput x.wreds (pf p 1 1) (wredOfParams p) }

/-- QOS_WRED_SET (R452). A wrong pair of MIN and MAX is found in MAX, the higher field. -/
def specQosWredSet (d : Dev) (p : BitVec 384) : CmdSpec :=
  { opcode := 0x070B, kind := .w, keepers := 0 :: bitList 8 (pf p 0 1),
    checks := [ckMask d 0 (pf p 0 1), resv p 1 1 0xC0, resv p 2 1 0xFC, resv p 3 1 0xF0]
      ++ ((List.range 3).flatMap fun c => [badIf (4 + 8 * c) (pf p (4 + 8 * c) 4 > wredTop),
        badIf (8 + 8 * c) (decide (pf p (8 + 8 * c) 4 > wredTop) || decide (pf p (8 + 8 * c) 4 < pf p (4 + 8 * c) 4))])
      ++ ((List.range 3).map fun c => badIf (28 + 2 * c) (pf p (28 + 2 * c) 2 > 256)) ++ [resB p 34 2],
    run := fun d => (applyQosWredSet (aliveDies d) p d, {}) }

def execQosWredSet (c : Cmd) (s : State) : Host.Outcome State Fault Refusal :=
  onDev s fun d => runCmd (specQosWredSet d c.params) c d

/-- QOS_WRED_BIND: the VOQs keep their AVG (R421, R452). -/
def specQosWredBind (d : Dev) (p : BitVec 384) : CmdSpec :=
  let mc := bitOf (pf p 2 1) 0
  let target := pf p 0 2
  { opcode := 0x070C, kind := .w, keepers := aliveDies d,
    checks := [ckTarget d 0 mc target, resv p 2 1 0xFE, badIf 3 (pf p 3 1 == 0), resv p 4 1 0xC0, resB p 5 3],
    run := fun d => (onTables d fun t => { t with wredBind := bindAll t.wredBind mc target (pf p 3 1) (pf p 4 1) }, {}) }

def execQosWredBind (c : Cmd) (s : State) : Host.Outcome State Fault Refusal :=
  onDev s fun d => runCmd (specQosWredBind d c.params) c d

/-- AVG + (Q − AVG) / 2^w in 1/256 cell, rounded down (R421). -/
def avgStep (avg q w : Nat) : Nat := ((avg : Int) + ((256 * q : Nat) - (avg : Int)) / (2 ^ w : Nat)).toNat

/-- WRED_AVG_UPDATE: at a multiple of 1 µs each VOQ of the die takes one step, unless its WEIGHT is 0 (R421). -/
def execWredAvgUpdate (die : Nat) (s : State) : Host.Outcome State Fault Refusal :=
  onDev s fun d =>
    if !alive d die || lastAction d ≤ (dieOf d die).wredAt then d
    else
      let d := (voqsOf d die).foldl (fun d q =>
        let w := (wredOf d q).weight
        if w = 0 then d else onVoq d q fun v => { v with avg := avgStep v.avg (depthOf d v) w }) d
      onDie d die fun x => { x with wredAt := x.wredAt + 1 }

/- Flow control (R429, R434, R437, R452, R453). -/

/-- After QOS_FC_SET: classes no longer LOSSLESS and VEs no longer held are released at once, and a port without flow
control pauses nothing (R426, R453). -/
def refreshFlow (d : Dev) (p : Nat) : Dev :=
  let q := portOf d p
  let d := if pausesAsOne q || pausesByClass q then d else onPort d p fun q => { q with txPaused := 0 }
  let n := dieOfPort p
  let vs := ((dieOf d n).tab.ves.filter fun e => e.2.valid && e.2.port == p).map (·.1)
  stallCheck (vs.foldl (fun d v => decideVe d n v) (decidePause d p)) p

/-- QOS_FC_SET (R452, R453, R731): checks of the port's mode apply to a configured port. -/
def specQosFcSet (d : Dev) (p : BitVec 384) : CmdSpec :=
  let port := pf p 0 2
  let fc := pf p 2 1
  let xoff := pf p 8 4
  let von := pf p 20 4
  { opcode := 0x070D, kind := .w, keepers := [0, dieOfPort port],
    checks := [ckPort d 0 port, badIf 2 (decide (fc > 2) || (isSpindle d port && fc != 0)), resv p 5 1 0xFE,
      badIf 5 (isEth d port && bitOf (pf p 5 1) 0), badIf 6 (pf p 6 2 < 2),
      badIf 8 (decide (xoff < 16) || decide (xoff > 196608)), badIf 12 (pf p 12 4 ≥ xoff), badIf 16 (pf p 16 4 > 65536),
      badIf 20 (decide (von < 16) || decide (von > 196608)), badIf 24 (pf p 24 4 ≥ von),
      badIf 28 (decide (pf p 28 2 < 10) || decide (pf p 28 2 > 10000)), resB p 30 2, resB p 38 2],
    run := fun d => (refreshFlow (onPort d port fun q => { q with set := { q.set with
      fcMode := fc
      lossless := pf p 3 1
      rxMask := pf p 4 1
      veXoffEn := bitOf (pf p 5 1) 0
      hold := pf p 6 2
      xoffTh := xoff
      xonTh := pf p 12 4
      headroom := pf p 16 4
      veXoffOn := von
      veXoffOff := pf p 24 4
      watchdog := pf p 28 2
      smac := pbytes p 32 6 } }) port, {}) }

def execQosFcSet (c : Cmd) (s : State) : Host.Outcome State Fault Refusal :=
  onDev s fun d => runCmd (specQosFcSet d c.params) c d

/-- What QOS_FC_STATUS reports of a configured port (R453). -/
def fcStatusBytes (d : Dev) (p : Nat) : List Byte :=
  let q := portOf d p
  let hold := (q.holdList.map fun i => cellCount (sizeOf' (frameOf d (copyOf d i).fid))).sum
  leBytes 1 (maskOf 8 fun c => bitOf q.set.rxMask c && recPaused d p c) ++ leBytes 1 q.txPaused ++ leBytes 1 (maskOf 8 (ignoring q))
    ++ leBytes 1 0 ++ leBytes 2 (q.rxXoff.filter fun e => bitOf q.set.rxMask e.1.2 && decide (d.now < e.2)).length ++ leBytes 2 q.veIgnore.length ++ leBytes 4 hold

/-- QOS_FC_STATUS; a lane that is no port's lowest reports 0 throughout (R452, R731). -/
def specQosFcStatus (d : Dev) (p : BitVec 384) : CmdSpec :=
  let port := pf p 0 2
  { opcode := 0x070E, kind := .r, any := true, keepers := [dieOfPort port], checks := [ckPort d 0 port],
    run := fun d => (d, okResult (if isPort d port then fcStatusBytes d port else [])) }

def execQosFcStatus (c : Cmd) (s : State) : Host.Outcome State Fault Refusal :=
  onDev s fun d => runCmd (specQosFcStatus d c.params) c d

/- Multicast groups (R442, R444, R454). -/

/-- QOS_MC_SET: package-wide values (R446, R452). -/
def specQosMcSet (d : Dev) (p : BitVec 384) : CmdSpec :=
  { opcode := 0x070F, kind := .w, keepers := aliveDies d,
    checks := [badIf 0 (pf p 0 2 > 10000), resB p 2 2, badIf 4 (decide (pf p 4 4 < 16) || decide (pf p 4 4 > 65536))],
    run := fun d => ({ d with pkg := { d.pkg with residue := pf p 0 2, mcPort := pf p 4 4 } }, {}) }

def execQosMcSet (c : Cmd) (s : State) : Host.Outcome State Fault Refusal :=
  onDev s fun d => runCmd (specQosMcSet d c.params) c d

/-- The entries of a member list in host memory (R452). -/
def memberList (n : Nat) (l : List Byte) : List Nat := (List.range n).map fun i => byteAt l (2 * i) + 256 * byteAt l (2 * i + 1)

/-- The group record that TBL_MCG_SET stores; a member belongs to the die of its PORT as it stands now (R442, R454). -/
def groupOfParams (d : Dev) (p : BitVec 384) (l : List Byte) : McGroup :=
  let flags := pf p 2 1
  if !bitOf flags 0 then {}
  else
    { valid := true, redCopy := bitOf flags 1, tenantOnly := bitOf flags 2, tenant := pf p 4 2, cntEn := bitOf flags 3,
      counter := pf p 8 4,
      members := (memberList (pf p 6 2) l).map fun v => (v, dieOfPort (veOf d.master v).port) }

/-- Members that die `n` would store over all groups with `g` in group `k` (R442). -/
def storedMembers (d : Dev) (n k : Nat) (g : McGroup) : Nat :=
  (((kput d.master.groups k g).flatMap fun e => e.2.members).filter fun m => m.2 == n).length

/-- TBL_MCG_SET (R444, R452, R454). Faults of the member list are found in LIST; with VALID 0 no list is read. -/
def specTblMcgSet (d : Dev) (p : BitVec 384) (list : List Byte) : CmdSpec :=
  let flags := pf p 2 1
  let valid := bitOf flags 0
  let n := pf p 6 2
  let counter := bitsOf (pf p 8 4) 0 20
  let l := padTo (2 * n) list
  let vs := memberList n l
  let g := groupOfParams d p l
  { opcode := 0x040B, kind := .w, keepers := aliveDies d, record := if valid then l else [],
    checks := [resv p 2 1 0xF0, resB p 3 1, resv p 4 2 0xFC00, badIf 6 (n > 4096), resv p 8 4 0xFFF00000,
      badIf 8 (counter % 4 != 0 || (bitOf flags 3 && decide (counter ≥ generalCounters))), resB p 12 4, ckAlign 16 8 (pf p 16 8),
      badIf 16 (if n = 0 then pf p 16 8 != 0 else valid && pf p 16 8 == 0),
      badIf 16 (valid && (vs.any (fun v => decide (v ≥ 4096) || !(veOf d.master v).valid) || decide (vs.eraseDups.length < vs.length)))],
    late := if (aliveDies d).any fun e => decide (storedMembers d e (pf p 0 2) g > 131072) then some stNoRoom else none,
    run := fun d =>
      let g := groupOfParams d p l
      (onTables d fun t => { t with groups := kput t.groups (pf p 0 2) g }, {}) }

def execTblMcgSet (c : Cmd) (list : List Byte) (s : State) : Host.Outcome State Fault Refusal :=
  onDev s fun d => runCmd (specTblMcgSet d c.params list) c d

/-- TBL_MCG_GET writes the members as stored on d0 and answers the record (R454). -/
def specTblMcgGet (via : Nat) (p : BitVec 384) : CmdSpec :=
  { opcode := 0x040C, kind := .r, any := true, keepers := [0], checks := [ckAlign 16 8 (pf p 16 8)],
    run := fun d =>
      let g := groupOf d.master (pf p 0 2)
      let d := if pf p 16 8 = 0 then d else hostWrite d via .pf0 (pf p 16 8) (g.members.flatMap fun m => leBytes 2 m.1)
      (d, okResult (leBytes 2 0 ++ leBytes 1 (atBit 0 g.valid + atBit 1 g.redCopy + atBit 2 g.tenantOnly + atBit 3 g.cntEn)
        ++ leBytes 1 0 ++ leBytes 2 g.tenant ++ leBytes 2 g.members.length ++ leBytes 4 g.counter
        ++ leBytes 1 (maskOf 8 fun n => g.members.any fun m => m.2 == n))) }

def execTblMcgGet (c : Cmd) (s : State) : Host.Outcome State Fault Refusal :=
  onDev s fun d => runCmd (specTblMcgGet c.die c.params) c d

/- The replication engine (R444 to R450). -/

/-- What the engine decides of a member. -/
inductive Verdict where
  | ready
  | never (reason : Nat)
  | later
  deriving DecidableEq, Repr

/-- A residue copy waits on a die for a port and class (R445, R447). -/
def residueWaits (d : Dev) (n p tc : Nat) (l : List Nat) : Bool :=
  l.any fun i => let c := copyOf d i
    c.die == n && c.port == p && c.tc == tc

/-- R445: the first row of the table that applies to member `v` of group `g` for frame `f` on die `n`. -/
def mcVerdict (d : Dev) (n : Nat) (f : Frame) (g : McGroup) (v : Nat) (behind : Bool) : Verdict :=
  let e := veRead (dieOf d n) v
  let q := portOf d e.port
  if v = f.ve then .never drMcPruned
  else if !e.valid || dieOfPort e.port != n || (g.tenantOnly && e.tenant != g.tenant) then .never drEgressDeny
  else if f.colour == 2 && !g.redCopy then .never drMcRed
  else if roleSent d != 0 then .never drRoleStandby
  else if q.link == .quarantine then .never drQuarantine
  else if q.link != .up then .never drPortDown
  else if ignoring q f.tc || veIgnoring q v f.tc then .never drPauseWatchdog
  else if classPaused d e.port f.tc || veStopped d e.port v f.tc || decide (queuedCells d e.port f.tc ≥ d.pkg.mcPort) then .later
  else if behind then .later
  else .ready

/-- A copy for a member, on its die (R445). -/
def memberCopy (d : Dev) (m : McChain) (f : Frame) (v : Nat) : Copy :=
  let e := veRead (dieOf d m.die) v
  { fid := f.id, die := m.die, port := e.port, ve := some v, eg := e, tc := f.tc, mc := true, own := m.die == f.die,
    ended := m.ended, cut := m.cuts.contains e.port, via := m.via, ecn := m.ecn, bornAt := d.now, limit := d.pkg.residue }

/-- A member that is refused for good: its copy is dropped under the row's reason; an invalid VE has no port (R446,
R450). -/
def denyMember (d : Dev) (m : McChain) (f : Frame) (v reason : Nat) : Dev :=
  let c := memberCopy d m f v
  let d := countDrop d m.die (if c.eg.valid then some c.port else none) (dropTenant f) reason (sizeOf' f)
  memberDone (feedEnergy d m.die f (receivedOps d f c)) m.die f.id false

/-- A member whose copy must wait joins the residue, or is dropped where it may not (R446, R448). -/
def joinResidue (d : Dev) (m : McChain) (f : Frame) (v : Nat) : Dev :=
  if d.pkg.residue = 0 then denyMember d m f v drMcResidue
  else if (dieOf d m.die).residue.length ≥ 16384 then
    denyMember (bumpDie d m.die cntMcResidueFull 1) m f v drMcResidue
  else
    let x := addCopy d (memberCopy d m f v)
    let d := onDie x.2 m.die fun y => { y with residue := y.residue ++ [x.1] }
    bumpDie (onChain d m.die f.id fun m => { m with open' := m.open' + 1 }) m.die cntMcResidue 1

/-- The engine judges one member of a chain for the first time (R445, R446). -/
def judgeMember (d : Dev) (m : McChain) (f : Frame) (v : Nat) : Dev :=
  let e := veRead (dieOf d m.die) v
  match mcVerdict d m.die f m.grp v (residueWaits d m.die e.port f.tc (dieOf d m.die).residue) with
  | .never r => denyMember d m f v r
  | .later => joinResidue d m f v
  | .ready =>
    let x := addCopy d (memberCopy d m f v)
    handOver (onChain x.2 m.die f.id fun m => { m with open' := m.open' + 1 }) (copyOf x.2 x.1)

/-- MC_COPY_JUDGE: the engine of a die takes the oldest chain whose first flit has arrived and judges every member of
the die, by the group record as it stands now (R444, R445, R450); one marked ABORTED it returns (R353). -/
def execMcCopyJudge (die : Nat) (s : State) : Host.Outcome State Fault Refusal :=
  onDev s fun d =>
    match (dieOf d die).mcIn.find? fun m => m.arrived && !m.begun && !m.slow with
    | none => d
    | some m =>
      if !alive d die then d
      else if m.aborted then settleChain (onChain d die m.fid fun x => { x with begun := true }) die m.fid
      else
        let f := frameOf d m.fid
        let g := (groupOfFrame d die f).getD {}
        let m := { m with begun := true, grp := g }
        let d := countGroup (onChain d die f.id fun x => { x with begun := true, grp := g }) die f 0
        let vs := if g.valid then (g.members.filter fun k => k.2 == die).map (·.1) else []
        settleChain (vs.foldl (fun d v => judgeMember d m (frameOf d m.fid) v) d) die f.id

/-- One residue copy at a multiple of 1 µs: expiry on that tick's sample first, then R445 again (R446, R447, R522). `older` holds the residue copies
before it that still wait. -/
def rejudge (d : Dev) (i : Nat) (older : List Nat) : Dev :=
  let c := copyOf d i
  let v := c.ve.getD 0
  if c.bad.isSome then forgetCopy d c
  else if decide (c.bornAt + c.limit * us ≤ tickSample d) then dropCopy d c drMcResidue
  else
    let e := veRead (dieOf d c.die) v
    let d := if e.valid && dieOfPort e.port == c.die then onCopy d i fun c => { c with port := e.port, eg := e } else d
    let g := (((dieOf d c.die).mcIn.find? fun m => m.fid == c.fid).map (·.grp)).getD {}
    match mcVerdict d c.die (frameOf d c.fid) g v (residueWaits d c.die e.port c.tc older) with
    | .never r => dropCopy d (copyOf d i) r
    | .later => d
    | .ready =>
      let d := onDie d c.die fun x => { x with residue := x.residue.filter (· != i) }
      handOver d (copyOf d i)

/-- MC_RESIDUE_TICK: at a multiple of 1 µs the residue of a die is judged again, in order of first judgement (R446,
R447). -/
def execMcResidueTick (die : Nat) (s : State) : Host.Outcome State Fault Refusal :=
  onDev s fun d =>
    let x := dieOf d die
    if !alive d die || lastAction d ≤ x.residueAt then d
    else
      let d := onDie d die fun x => { x with residueAt := lastAction d }
      x.residue.foldl (fun d i => rejudge d i ((dieOf d die).residue.takeWhile (· != i))) d

end Sys2Proof.Machine
end

