-- ==== Sys2Proof/Machine/Spindle.lean ====
section
/-! DEFINITION. Ordered sets of a Spindle link that is UP, quiet states, and the timers of pauses, XOFFs and watchdogs
(R76 to R79, R127 to R131, R136 to R149, R435 to R440, R483). -/

namespace Sys2Proof.Machine

/- Receiving ordered sets. -/

/-- A row of ordered sets advances the stream of a port and wakes its slice (R98, R485). -/
def rowSeen (d : Dev) (p : Nat) : Dev :=
  let d := if (sliceOf d (dieOfPort p) (sliceOfPort p)).pow == .on then d else wakeSlice d (dieOfPort p) (sliceOfPort p)
  onPort d p fun q => { q with rxRow := q.rxRow + 1, rxBlk := 0 }

/-- 100 ns in time units. -/
def hold100 : Nat := 1250

/-- The far end's answer puts a port that asked into L2 (R77). -/
def answerL2 (d : Dev) (p quiet : Nat) : Dev :=
  match (portOf d p).l2Ask with
  | some t => if quiet = 2 && d.now < t + 10 * us then onPort d p fun q => { q with power := .l2, l2Ask := none, roleLeft := 0, restAt := d.now } else d
  | none => d

/-- RX_ROLE: a ROLE row takes effect (R129, R139, R141). -/
def execRxRole (port : Nat) (content : BitVec 40) (s : State) : Host.Outcome State Fault Refusal :=
  onDev s fun d =>
    if !receiving d port then passRow d port
    else
      let d := rowSeen d port
      let role := hf content 3 2
      let quiet := hf content 5 2
      let epoch := hf content 16 16
      if hf content 32 8 != 0 || hf content 7 9 != 0 || role == 3 || quiet == 3 then bumpPort d port cntOsBad 1
      else
        let d := onPort d port fun q => { q with
          roleSeen := true
          farRole := role
          farQuiet := quiet
          farEpoch := epoch
          farRoleAt := some d.now }
        let d := (portLanes d port).foldl (fun d l => onLane d l fun x =>
          if quiet = 0 then { x with resume := none, cwGood := 0, cwBad := 0 } else x) d
        let d := if isPeerPort d port then drainPeer d else d
        roleReceived (answerL2 d port quiet) port role epoch

/-- RX_PAUSE_OS: a PAUSE row replaces the pause state of the port (R129, R143, R144, R427). -/
def execRxPauseOs (port : Nat) (content : BitVec 40) (s : State) : Host.Outcome State Fault Refusal :=
  onDev s fun d =>
    if !receiving d port then passRow d port
    else
      let d := rowSeen d port
      if hf content 24 16 != 0 then bumpPort d port cntOsBad 1
      else
        let until' := d.now + hf content 8 16 * hold100
        let d := stallCheck (bumpPort (onPort d port fun q => (List.range 8).foldl (fun q c =>
          setPaused q c (if bitOf (hf content 0 8) c then until' else d.now) d.now) q) port cntPauseRx 1) port
        if isPeerPort d port then drainPeer d else d

/-- RX_VE_XOFF: a VE_XOFF row sets or clears the state of a VE for the classes of its MASK (R129, R146 to R149). -/
def execRxVeXoff (port : Nat) (content : BitVec 40) (s : State) : Host.Outcome State Fault Refusal :=
  onDev s fun d =>
    if !receiving d port then passRow d port
    else
      let d := rowSeen d port
      let v := hf content 0 12
      let e := veRead (dieOf d (dieOfPort port)) v
      if hf content 13 3 != 0 || !e.valid || e.port != port then bumpPort d port cntOsBad 1
      else
        let until' := d.now + hf content 16 16 * hold100
        let stop := hf content 12 1 == 1
        stallCheck (bumpPort (onPort d port fun q => (bitList 8 (hf content 32 8)).foldl (fun q c =>
          setXoff q (v, c) (if stop then until' else d.now) d.now) q) port cntVeXoffRx 1) port

/-- RX_OS_UNKNOWN: an ORDERED block with an unassigned code and a correct CRC is ignored and counted; it breaks no frame
(R128). -/
def execRxOsUnknown (port : Nat) (s : State) : Host.Outcome State Fault Refusal :=
  onDev s fun d =>
    if receiving d port then bumpPort (blockSeen d port) port cntOsUnknown 1
    else if hears d port && (portOf d port).link != .quarantine then bumpPort (passBlock d port) port cntOsUnknown 1
    else passBlock d port

/-- RX_OS_BAD: a row that fails its checks is discarded and counted (R127, R129). -/
def execRxOsBad (port : Nat) (s : State) : Host.Outcome State Fault Refusal :=
  onDev s fun d =>
    if receiving d port then bumpPort (rowSeen d port) port cntOsBad 1
    else if hears d port && (portOf d port).link != .quarantine then bumpPort (passRow d port) port cntOsBad 1
    else passRow d port

/- Sending ROLE (R138). -/

/-- A Spindle link that is UP and whose transmitter is not idle. -/
def talking (d : Dev) (p : Nat) : Bool := isSpindle d p && portUp d p && (portOf d p).power == .l0

/-- ROLE_KEEPALIVE_DUE: 65,536 rows have passed since the last ROLE (R138). -/
def execRoleKeepaliveDue (port : Nat) (s : State) : Host.Outcome State Fault Refusal :=
  onDev s fun d =>
    let q := portOf d port
    if talking d port && expired d q.roleAt (65536 * rowTime q.rate) then sendRole d port else d

/-- The transmitter of a port sends a changed ROLE: it is on, or on for the question of R77 from L1, or
for an exit from L2 (R484). -/
def repeats (d : Dev) (p : Nat) : Bool :=
  let q := portOf d p
  decide (q.roleLeft > 0) && (talking d p || (isSpindle d p && portUp d p && ((q.power == .l1 && q.l2Ask.isSome) || q.wakeAt.isSome)))

/-- ROLE_REPEAT_DUE: 1 µs after a changed ROLE, the next of its four sendings (R138). After the fourth with QUIET 1 the port
enters L1 (R76). -/
def execRoleRepeatDue (port : Nat) (s : State) : Host.Outcome State Fault Refusal :=
  onDev s fun d =>
    let q := portOf d port
    if repeats d port && expired d q.roleAt us then
      let d := sendRole (onPort d port fun q => { q with roleLeft := q.roleLeft - 1 }) port
      if q.roleLeft = 1 && q.quiet == 1 && q.power == .l0 then onPort d port fun q => { q with power := .l1 } else d
    else d

/- Quiet states (R76 to R79, R482 to R484, R654). -/

/-- Parking is allowed on a die (R482). -/
def parkAllowed (d : Dev) (n : Nat) : Bool := (dieOf d n).park == 1 || ((dieOf d n).park == 0 && d.pkg.engaged)

/-- A package that does not hold the lease keeps its Spindle links, but for the peer link, in L1 (R654). -/
def standbyPort (d : Dev) (p : Nat) : Bool := !isActive d && !isPeerPort d p

/-- L1_IDLE_ENTRY: a port with nothing to send for 10 µs announces QUIET L1, and enters L1 with the last of the four
sendings (R76, R138, R483); a standby's ports do so at once (R654). In thermal stop the peer link stays in L0 (R721). -/
def execL1IdleEntry (port : Nat) (s : State) : Host.Outcome State Fault Refusal :=
  onDev s fun d =>
    let q := portOf d port
    let idle := parkAllowed d (dieOfPort port) && q.tx.isNone && q.next.isNone && schedEmpty q && expired d (max q.lastTx q.lastWait) (10 * us)
      && !(isPeerPort d port && (d.thermal || !d.ha.q6.isEmpty || !d.ha.q7.isEmpty))
    if talking d port && q.phase == .idle && q.quiet == 0 && (standbyPort d port || idle) then
      sendRoles (onPort d port fun q => { q with quiet := 1 }) port
    else d

/-- L2_DELAY_EXPIRY: a port in L1 that has received nothing for L2_DELAY asks the far end for L2: its transmitter leaves
electrical idle for the ROLEs, and stays in L1 (R77, R138, R142, R483). -/
def execL2DelayExpiry (port : Nat) (s : State) : Host.Outcome State Fault Refusal :=
  onDev s fun d =>
    let q := portOf d port
    let x := dieOf d (dieOfPort port)
    if isSpindle d port && portUp d port && q.power == .l1 && q.l2Ask.isNone && !standbyPort d port
        && parkAllowed d (dieOfPort port) && x.l2Delay != 0 && expired d q.lastRx (x.l2Delay * ms) then
      let d := sendRole (sendWake (onPort d port fun q => { q with quiet := 0 }) port) port
      sendRoles (onPort d port fun q => { q with quiet := 2, l2Ask := some d.now }) port
    else d

/-- L2_ANSWER_TIMEOUT: no answer within 10 µs leaves the port in L1 (R77). -/
def execL2AnswerTimeout (port : Nat) (s : State) : Host.Outcome State Fault Refusal :=
  onDev s fun d =>
    match (portOf d port).l2Ask with
    | some t => if expired d t (10 * us) then onPort d port fun q => { q with l2Ask := none, quiet := 1, roleLeft := 0 } else d
    | none => d

/-- Duration of the check window by rate code: 2^16 blocks or 820 codewords (R55, R78). -/
def checkTime (rate : Nat) : Nat := (if rate ≤ 1 then 65536 else 820 * 80) * rowTime rate

/-- L2_EXIT_CHECK_END: the check window after an L2 exit ends. A condition of R59 that breaks within it fails it at once;
`pass` false is a failure to retrain (R78, R142). -/
def execL2ExitCheckEnd (port : Nat) (pass : Bool) (s : State) : Host.Outcome State Fault Refusal :=
  onDev s fun d =>
    let q := portOf d port
    if q.wakeAt.isNone || !(q.phase == .l2Train || q.phase == .l2Check) || !portUp d port then d
    else if !pass then linkFails d port
    else if q.phase == .l2Train || !expired d q.phaseAt (checkTime q.rate) then d
    else
      let d := onPort d port fun q => { q with
        power := .l0
        phase := .idle
        wakeAt := none
        quiet := 0
        lastTx := d.now }
      resumeTx d port

/-- L2_EXIT_LIMIT: an L2 exit has not passed within 3 ms (R78). -/
def execL2ExitLimit (port : Nat) (s : State) : Host.Outcome State Fault Refusal :=
  onDev s fun d =>
    match (portOf d port).wakeAt with
    | some t => if expired d t (3 * ms) && portUp d port then linkFails d port else d
    | none => d

/- Pauses and XOFFs over time (R144, R147, R435, R437). -/

/-- HOLD / 2 of what a port sends (R435). -/
def refreshTime (d : Dev) (p : Nat) : Nat :=
  let q := portOf d p
  (if q.conf.mode = 2 then quantaTime d p q.set.hold else q.set.hold * hold100) / 2

/-- PAUSE_REFRESH_DUE: HOLD / 2 has passed while classes are paused (R435). -/
def execPauseRefreshDue (port : Nat) (s : State) : Host.Outcome State Fault Refusal :=
  onDev s fun d =>
    let q := portOf d port
    if portUp d port && q.txPaused != 0 && expired d q.txPauseAt (refreshTime d port) then sendPause d port none else d

/-- VE_XOFF_REFRESH_DUE: HOLD / 2 has passed while a VE is in XOFF (R437). -/
def execVeXoffRefreshDue (port ve : Nat) (s : State) : Host.Outcome State Fault Refusal :=
  onDev s fun d =>
    match kget? (portOf d port).txXoff ve with
    | some t =>
      let e := veOf (dieOf d (dieOfPort port)).tab ve
      if !e.valid || e.port != port then onPort d port fun q => { q with txXoff := kdel q.txXoff ve }
      else if isSpindle d port && portUp d port && expired d t (refreshTime d port) then sendVeXoff d port ve true else d
    | none => d

/-- PAUSE_HOLD_EXPIRY: the hold of a received pause has run out (R144, R429). -/
def execPauseHoldExpiry (port tc : Nat) (s : State) : Host.Outcome State Fault Refusal :=
  onDev s fun d =>
    let d := onPort d port fun q => { q with rxPaused := q.rxPaused.filter fun e => !(e.1 == tc && decide (e.2 ≤ d.now)) }
    if isPeerPort d port then drainPeer d else d

/-- VE_XOFF_HOLD_EXPIRY: the hold of a received VE_XOFF has run out (R147). -/
def execVeXoffHoldExpiry (port ve : Nat) (s : State) : Host.Outcome State Fault Refusal :=
  onDev s fun d => onPort d port fun q => { q with rxXoff := q.rxXoff.filter fun e => !(e.1.1 == ve && decide (e.2 ≤ d.now)) }

/- Watchdogs (R438 to R440). -/

/-- EV_PAUSE_WATCHDOG (R439). -/
def raiseWatchdog (d : Dev) (p tc : Nat) (ve : Option Nat) : Dev :=
  raise (bumpPort d p cntPauseWatchdog 1) (dieOfPort p) evPauseWatchdog
    (leBytes 2 p ++ leBytes 1 tc ++ leBytes 1 0 ++ leBytes 2 (ve.getD 0xFFFF))

/-- Copies of a class, or of a (VE, class) pair, that wait on a port are dropped (R439). -/
def dropStalled (d : Dev) (p tc : Nat) (ve : Option Nat) : Dev :=
  ((waitingIn d p tc).map (copyOf d)).foldl (fun d c =>
    if ve.isNone || c.ve == ve then dropCopy d c drPauseWatchdog else d) d

/-- PAUSE_WATCHDOG_EXPIRY: at an action tick a stall timer has reached WATCHDOG; its class or pair is in PAUSE_IGNORE for 1 s
from there (R439, R522). -/
def execPauseWatchdogExpiry (port tc : Nat) (ve : Option Nat) (s : State) : Host.Outcome State Fault Refusal :=
  onDev s fun d =>
    let q := portOf d port
    let start := match ve with
      | none => kget? q.stall tc
      | some v => kget? q.veStall (v, tc)
    match start with
    | none => d
    | some t =>
      if tickSample d < t + q.set.watchdog * ms || !portUp d port then d
      else
        let d := match ve with
          | none => onPort d port fun q => { q with stall := kdel q.stall tc, ignore := kput q.ignore tc (tickSample d + sec) }
          | some v => onPort d port fun q =>
            { q with veStall := kdel q.veStall (v, tc), veIgnore := kput q.veIgnore (v, tc) (tickSample d + sec) }
        dropStalled (raiseWatchdog d port tc ve) port tc ve

/-- PAUSE_IGNORE_PERIOD_END: at an action tick a period of 1 s is over; a new one follows it while the recorded state is still in
effect. A pause or a release of that very tick comes after it (R440, R520, R522). -/
def execPauseIgnorePeriodEnd (port tc : Nat) (ve : Option Nat) (s : State) : Host.Outcome State Fault Refusal :=
  onDev s fun d =>
    let q := portOf d port
    let stop := match ve with
      | none => kget? q.ignore tc
      | some v => kget? q.veIgnore (v, tc)
    let still := match ve with
      | none => bitOf q.set.rxMask tc && heldAt q.rxPaused q.pausedAt tc (tickSample d)
      | some v => bitOf q.set.rxMask tc && heldAt q.rxXoff q.xoffAt (v, tc) (tickSample d)
    match stop with
    | none => d
    | some t =>
      if tickSample d < t then d
      else match ve with
        | none => stallCheck (onPort d port fun q =>
            { q with ignore := if still then kput q.ignore tc (t + sec) else kdel q.ignore tc }) port
        | some v => stallCheck (onPort d port fun q =>
            { q with veIgnore := if still then kput q.veIgnore (v, tc) (t + sec) else kdel q.veIgnore (v, tc) }) port

end Sys2Proof.Machine
end

