-- ==== Sys2Proof/Machine/Scheduler.lean ====
section
/-! DEFINITION. The egress scheduler: shapers, eligibility, deficit round robin, the start and the end of a transmission,
energy holds, and the QOS_SCHED commands (R455 to R461, R471 to R474, R494 to R496, R505 to R515). -/

namespace Sys2Proof.Machine

/- Shapers (R457, R458). Rates are in kb/s here. -/

/-- Depth of the class, minimum and maximum shapers in bytes (R458). -/
def innerBurst : Nat := 16384

/-- A shaper at a grain tick; with a rate of 0 it is no limit and stays full. -/
def shaperAt (b : Bucket) (tick rate burst : Nat) : Bucket :=
  if rate = 0 then { tokens := (burst * byteUnit : Nat), last := tick } else fill b tick rate (burst * byteUnit)

/-- A shaper after a frame of `cost` bytes has taken its tokens. -/
def shaperTake (b : Bucket) (tick rate burst cost : Nat) : Bucket :=
  let b := shaperAt b tick rate burst
  if rate = 0 then b else { b with tokens := b.tokens - (cost * byteUnit : Nat) }

/-- A shaper is open while it holds more than 0 tokens; a rate of 0 leaves it always open (R458). -/
def shaperOpen (b : Bucket) (tick rate burst : Nat) : Bool := decide ((shaperAt b tick rate burst).tokens > 0)

def portShaperOpen (d : Dev) (p : Nat) : Bool :=
  let q := portOf d p
  shaperOpen q.portB (tickOf d) (q.set.shapeRate * 1000) q.set.shapeBurst

def classShaperOpen (d : Dev) (p c : Nat) : Bool :=
  let q := portOf d p
  shaperOpen (q.classB.getD c {}) (tickOf d) (q.set.classMax.getD c 0 * 100000) innerBurst

def maxShaperOpen (d : Dev) (x : Group) : Bool := shaperOpen x.maxB (tickOf d) (x.maxRate * 1000) innerBurst

/-- A minimum shaper with a rate of 0 is never open (R458). -/
def minShaperOpen (d : Dev) (x : Group) : Bool :=
  x.minRate != 0 && shaperOpen x.minB (tickOf d) (x.minRate * 1000) innerBurst

/-- B of a frame on a port (R457). -/
def schedBytes (d : Dev) (p : Nat) (f : Frame) : Nat := ((wireBytes f : Int) + (portOf d p).set.overhead).toNat

/-- A frame that starts at tick `t` takes `cost` tokens from every shaper on its path (R458). -/
def takeShapers (d : Dev) (p : Nat) (c : Copy) (t cost : Nat) : Dev :=
  onPort d p fun q =>
    let x := kget q.set.groups c.group {}
    let x := { x with
      minB := shaperTake x.minB t (x.minRate * 1000) innerBurst cost
      maxB := shaperTake x.maxB t (x.maxRate * 1000) innerBurst cost }
    { q with
      portB := shaperTake q.portB t (q.set.shapeRate * 1000) q.set.shapeBurst cost
      classB := lmod q.classB c.tc fun b => shaperTake b t (q.set.classMax.getD c.tc 0 * 100000) innerBurst cost
      set := { q.set with groups := kput q.set.groups c.group x } }

/- The hold list of VEs in XOFF (R432). -/

/-- The copy is for a VE that is in XOFF in its class (R432). -/
def isStopped (d : Dev) (c : Copy) : Bool := isSpindle d c.port && c.ve.any fun v => veStopped d c.port v c.tc

def copyCells (d : Dev) (i : Nat) : Nat := cellCount (sizeOf' (frameOf d (copyOf d i).fid))

/-- The leading copies of a class queue that move to a hold list with `room` cells left. -/
def heldPrefix (d : Dev) : Nat → List Nat → List Nat
  | _, [] => []
  | room, i :: r =>
    if isStopped d (copyOf d i) && decide (copyCells d i ≤ room) then i :: heldPrefix d (room - copyCells d i) r else []

/-- A held copy whose VE is no longer in XOFF returns to the head of its class queue. -/
def unhold (d : Dev) (p i : Nat) : Dev :=
  let c := copyOf d i
  onPort d p fun q =>
    let x := kget q.set.groups c.group {}
    { q with
      holdList := q.holdList.filter (· != i)
      set := { q.set with groups := kput q.set.groups c.group { x with queues := lmod x.queues c.tc (i :: ·) } } }

/-- The copies at the head of a class queue that are for VEs in XOFF move to the hold list, as far as it has room. -/
def holdQueue (d : Dev) (p g c : Nat) : Dev :=
  let q := portOf d p
  let x := kget q.set.groups g {}
  let room := 8 * windowOf d p - (q.holdList.map (copyCells d)).sum
  let l := heldPrefix d room (x.queues.getD c [])
  if l.isEmpty then d
  else onPort d p fun q => { q with
    holdList := q.holdList ++ l
    set := { q.set with groups := kput q.set.groups g (groupQueues x (lmod x.queues c (·.drop l.length))) } }

/-- The hold list of a port brought up to date (R432): the last returned copy goes first, so that order is kept. -/
def settleHold (d : Dev) (p : Nat) : Dev :=
  let back := (portOf d p).holdList.filter fun i => !isStopped d (copyOf d i)
  let d := back.reverse.foldl (fun d i => unhold d p i) d
  stallCheck ((portOf d p).set.groups.foldl (fun d g => (List.range 8).foldl (fun d c => holdQueue d p g.1 c) d) d) p

/- Eligibility (R459, R471). -/

/-- The energy condition of a frame on a die (R471). -/
def energyOk (d : Dev) (n : Nat) (f : Frame) : Bool :=
  let a := kget (dieOf d n).accts f.acct {}
  f.kind == .keeper || !d.pkg.engaged || quotaOf d n f.acct == noLimit || (decide (a.balance ≥ 0) && decide (a.share > 0))

/-- A head frame of a port (R456). -/
structure Head where
  group : Nat
  cls : Nat
  copy : Nat
  cost : Nat        -- B
  other : Bool      -- every condition of R459 but the energy condition
  energy : Bool     -- the energy condition

/-- The head of class `c` of group `g`; a frame that does not cut through to this port is sent only after its end (R400). -/
def headOf (d : Dev) (p : Nat) (g : Nat × Group) (c : Nat) : Option Head :=
  ((g.2.queues.getD c []).head?).map fun i =>
    let k := copyOf d i
    let f := frameOf d k.fid
    { group := g.1, cls := c, copy := i, cost := schedBytes d p f, energy := energyOk d (dieOfPort p) f,
      other := (k.cut || wholeFrame f) && !classPaused d p c && !isStopped d k && classShaperOpen d p c }

/-- The head frames of a port. -/
def headsOf (d : Dev) (p : Nat) : List Head :=
  (portOf d p).set.groups.flatMap fun g => (List.range 8).filterMap (headOf d p g)

/-- The head frame is eligible, or would be under a waived energy condition (R459, R473). -/
def eligible (waive : Bool) (h : Head) : Bool := h.other && (h.energy || waive)

/-- Every head that fails the energy condition alone is energy-held: its hold time starts, and it is counted once (R471,
R474). -/
def markHolds (d : Dev) (p : Nat) : Dev :=
  ((headsOf d p).filter fun h => h.other && !h.energy).foldl (fun d h =>
    let c := copyOf d h.copy
    let d := if c.heldOnce then d else bumpPort d p cntEnergyHold 1
    onCopy d h.copy fun c => { c with heldOnce := true, holdAt := some (c.holdAt.getD d.now) }) d

/- Deficit round robin (R460). -/

/-- Visits that a member needs before its deficit covers `cost`. -/
def visits (cost : Nat) (deficit : Int) (quantum : Nat) : Nat := max 1 (((cost : Int) - deficit + quantum - 1) / quantum).toNat

/-- The least of a list; 0 for the empty list. -/
def leastOf : List Nat → Nat
  | [] => 0
  | [a] => a
  | a :: r => min a (leastOf r)

/-- Deficit round robin among `n` members: `ms` lists the members with the cost of what each would send, `cur` is the
member visited last. It answers the member that sends and every deficit after the visits. -/
def drr (n cur : Nat) (ms : List (Nat × Nat)) (deficit quantum : List (Nat × Int)) : Option (Nat × List (Nat × Int)) :=
  let def' := fun m => kget deficit m 0
  let q := fun m => (kget quantum m 256).toNat
  if ms.any fun m => m.1 == cur && decide (def' cur ≥ m.2) then some (cur, deficit)
  else
    let order := (List.range n).filterMap fun k => ms.find? fun m => m.1 == (cur + 1 + k) % n
    let least := leastOf (order.map fun m => visits m.2 (def' m.1) (q m.1))
    match order.findIdx? fun m => visits m.2 (def' m.1) (q m.1) == least with
    | none => none
    | some k =>
      let given := fun i : Nat => if i ≤ k then least else least - 1
      some (((order[k]?).map (·.1)).getD cur,
        order.zipIdx.foldl (fun l m => kput l m.1.1 (def' m.1.1 + (given m.2 * q m.1.1 : Nat))) deficit)

/-- A deficit of `m` after a frame of `cost` bytes. -/
def spend (l : List (Nat × Int)) (m cost : Nat) : List (Nat × Int) := kput l m (kget l m 0 - cost)

/-- What a group would send: its head, and the deficits of its classes after it (R460 step 3). -/
def pickClass (x : Group) (hs : List Head) : Option (Head × List (Nat × Int)) :=
  let defs : List (Nat × Int) := (List.range 8).map fun c => (c, x.classD.getD c 0)
  match (hs.filter fun h => bitOf x.strict h.cls).reverse with
  | h :: _ => some (h, defs)
  | [] => match drr 8 x.classAt (hs.map fun h => (h.cls, h.cost)) defs
      ((List.range 8).map fun c => (c, (x.classW.getD c 1 * 256 : Nat))) with
    | none => none
    | some (c, l) => (hs.find? fun h => h.cls == c).map fun h => (h, spend l c h.cost)

/-- The selection of R460 on a port: the head that is sent and the port with its deficits updated. -/
def choose (d : Dev) (p : Nat) (waive : Bool) : Option (Head × Port) :=
  let q := portOf d p
  let hs := (headsOf d p).filter (eligible waive)
  let can := q.set.groups.filterMap fun g =>
    let mine := hs.filter fun h => h.group == g.1
    if mine.isEmpty || !maxShaperOpen d g.2 then none else (pickClass g.2 mine).map fun k => (g, k)
  let floor := can.filter fun x => minShaperOpen d x.1.2
  let use := if floor.isEmpty then can else floor
  match drr 64 q.groupAt (use.map fun x => (x.1.1, x.2.1.cost)) (q.set.groups.map fun g => (g.1, g.2.deficit))
      (q.set.groups.map fun g => (g.1, (g.2.weight * 256 : Nat))) with
  | none => none
  | some (g, l) => (use.find? fun x => x.1.1 == g).map fun x =>
    let h := x.2.1
    let l := spend l g h.cost
    let groups := q.set.groups.map fun y =>
      let z := { y.2 with deficit := kget l y.1 0 }
      (y.1, if y.1 = g then
        groupQueues { z with
          classD := (List.range 8).map fun c => kget x.2.2 c 0
          classAt := if bitOf y.2.strict h.cls then y.2.classAt else h.cls } (y.2.queues.map fun w => w.filter (· != h.copy))
        else z)
    (h, { q with groupAt := g, set := { q.set with groups := groups } })

/- The start of a transmission (R461, R464, R505 to R514). -/

/-- The lane of a port that carries the next timestamp point: on a Spindle link that of the START block (R98, R505). Which
lane carries the first bit of an Ethernet frame is left open: a free one of them (log 18). -/
def stampLane (d : Dev) (p : Nat) : Nat × Dev :=
  let w := (portOf d p).conf.width
  if isSpindle d p then (p + txPlace (portOf d p) d.now, d)
  else if w ≤ 1 then (p, d) else let x := takeUnstated d
    (p + x.1 % w, x.2)

/-- What egress rewrite adds to the correctionField of a forwarded event message: the residence time, and for a Sync
under TC_MODE 2 the PEER_DELAY of the arriving port (R513, R514). -/
def ptpCorrection (d : Dev) (p : Nat) (f : Frame) (point : Int) : Option Int :=
  let mode := (portOf d p).set.tcMode
  match f.parsed.ptp with
  | none => none
  | some o =>
    if f.kind != .received || (mode != 1 && mode != 2) then none
    else
      let rate := (d.domains.getD f.src.domain {}).rate
      let t := (point - f.rxAt) * 32 * (65536000000000 + rate) / 400000000000
      let peer := if mode == 2 && byteAt f.bytes o % 16 == 0 then (portOf d f.port).set.peerDelay * 65536 else 0
      some (t + peer)

/-- The next sequence number of the session of a GRE copy that starts (R312). -/
def takeSeq (d : Dev) (f : Frame) : Nat × Dev := match f.kind with
  | .mirror s _ => if f.mirSes.kind = 1 then
      let n := kget d.mirSeq s 0
      (n, { d with mirSeq := kput d.mirSeq s ((n + 1) % two32) })
    else (0, d)
  | _ => (0, d)

/-- The bytes that a whole copy sends (R103, R246, R312, R424, R513). -/
def outBytes (f : Frame) (c : Copy) (seq : Nat) : List Byte :=
  let plain := withFcs (rewriteBytes f c (f.bytes.take (sizeOf' f - 4)))
  match f.kind with
  | .mirror s egress => if f.mirSes.kind = 1 then greBytes f s egress seq else plain
  | _ => plain

/-- A Sync with twoStepFlag clear that firmware sends on a port with ONE_STEP takes the transmit timestamp into its
originTimestamp, and its UDP checksum follows (R502, R513, R515). -/
def stampSync (f : Frame) (oneStep : Bool) (ns : Nat) : Frame := match f.parsed.ptp with
  | none => f
  | some o =>
    if f.kind != .keeper || !oneStep || byteAt f.bytes o % 16 != 0 || bitOf (byteAt f.bytes (o + 6)) 1 then f
    else
      let before := slice f.bytes (o + 34) 10
      let after := beBytes 6 (ns / 1000000000 % 2 ^ 48) ++ beBytes 4 (ns % 1000000000)
      let l := splice f.bytes (o + 34) after
      let sum := fun u => beBytes 2 (udpSum (be l (u + 6) 2) before after (f.parsed.ktype == 1))
      let new := match f.parsed.ptpUdp with
        | none => l
        | some u => splice l (u + 6) (sum u)
      { f with bytes := new }

/-- VE of the start header: the destination VE; the spec states none for a mirror copy (R110; log 18). -/
def headerVe (d : Dev) (c : Copy) : Nat × Dev := match c.ve with
  | some v => (v, d)
  | none => let x := takeUnstated d
    (x.1 % 4096, x.2)

/-- The stall timers of a class and of a (VE, class) pair restart when a frame starts (R438). -/
def restartStall (d : Dev) (p : Nat) (c : Copy) : Dev :=
  stallCheck (onPort d p fun q => { q with
    stall := kdel q.stall c.tc
    veStall := q.veStall.filter fun e => !(e.1.2 == c.tc && c.ve == some e.1.1) }) p

/-- Operations that a copy is charged for, as far as its descriptor records them: its own, and the frame's ingress operations
when it is the first to start (R463, R464). -/
def copyOps (d : Dev) (f : Frame) (c : Copy) (bytes : Nat) : Nat :=
  egressOps d f c bytes (c.own && !c.opsIn) + if c.opsIn then ingressOps d c.die f true else 0

/-- A copy that starts pays B tokens from its shapers and its energy under the K of its die (R458, R464). Of a frame that is
still arriving, the tokens and the operations recorded after the start follow at its end, for the start (log 41). -/
def payStart (d : Dev) (p : Nat) (c : Copy) (f : Frame) : Dev :=
  let k := (dieOf d c.die).k
  let c := { c with opsIn := !f.fedE, startK := k }
  let ops := copyOps d f c (sizeOf' f)
  let d := takeShapers d p c (tickOf d) (if wholeFrame f then schedBytes d p f else 0)
  let d := onCopy d c.id fun x => { x with opsIn := c.opsIn, startK := k, ops := ops, fed := wholeFrame f }
  if f.kind = .keeper then d else chargeAt (onFrame d f.id fun f => { f with fedE := true }) c.die f.acct k ops

/-- A group's deficits after the rest of B has become known of the frame in transmission (R460): those of a queue that has
emptied are 0. -/
def spendRest (x : Group) (tc rest : Nat) : Group :=
  { x with
    deficit := if x.queues.all (·.isEmpty) then 0 else x.deficit - rest
    classD := if bitOf x.strict tc || (x.queues.getD tc []).isEmpty then x.classD else lmod x.classD tc fun v => v - rest }

/-- A copy of a frame that was still arriving at its start pays at its end what its start could not take: tokens as of its
start, deficits, and energy under the K of its start (R458, R460, R464; log 41). -/
def payRest (d : Dev) (p : Nat) (t : Tx) (c : Copy) (f : Frame) (bytes : Nat) : Dev :=
  if c.fed then d
  else
    let cost := schedBytes d p f
    let ops := copyOps d f c bytes
    let d := takeShapers d p c t.tick cost
    let d := onPort d p fun q => { q with
      set := { q.set with groups := q.set.groups.map fun g => if g.1 = c.group then (g.1, spendRest g.2 c.tc (cost - t.cost)) else g } }
    let d := onCopy d c.id fun c => { c with fed := true }
    if f.kind = .keeper then d else chargeAt d c.die f.acct c.startK (ops - c.ops)

/-- The egress mirror copy of a frame that starts (R306, R307, R309). -/
def mirrorOut (d : Dev) (p : Nat) (c : Copy) (ns : List Nat) : Dev :=
  let f := frameOf d c.fid
  match c.eg.mirEg, c.ve with
  | some s, some v => if f.kind = .received then
      judgeMirrors (beginMirror d f c.die s true p v c.eg ns c.ecn c.corr) f.id else d
  | _, _ => d

/-- A copy starts on a port (R461): its timestamp point, its correction, its charges and its egress mirror copy. `cost` is
what its selection took for B. -/
def startCopy (d : Dev) (p i cost : Nat) : Dev :=
  let c := copyOf d i
  let f := frameOf d c.fid
  let x := stampLane d p
  let point := boundaryTime x.2 p x.1 true
  let ns := stampNs x.2 point
  let corr := ptpCorrection x.2 p f point
  let d := onCopy x.2 i fun c => { c with corr := corr, holdAt := none }
  let d := onFrame d f.id fun f => stampSync f (portOf d p).set.oneStep (ns.getD f.mirDom 0)
  let d := if corr.isSome then bumpPort d p cntPtpCorr 1 else d
  let v := headerVe d (copyOf d i)
  let b := takeSeq v.2 f
  let d := onPort b.2 p fun q => { q with
    tx := some { copy := i, start := d.now, point := point, ns := ns, head := v.1 + c.tc * 4096, seq := b.1, tick := tickOf d, cost := cost }
    next := none }
  let d := payStart d p c f
  let d := onSlice d (dieOfPort p) (sliceOfPort p) fun x => { x with idleAt := d.now }
  mirrorOut (restartStall d p c) p (copyOf d i) ns

/-- The transmitter of a port can start a frame, once none is in transmission (R49, R85, R139, R140, R142, R460). -/
def canTransmit (d : Dev) (p : Nat) : Bool :=
  let q := portOf d p
  portUp d p && d.run == .running && !d.thermal && !(dieOf d (dieOfPort p)).txStop && q.power == .l0 && isActive d && (!isSpindle d p || q.roleSeen) && decide (q.txFrom ≤ d.now)

/-- Copies at the heads of a port's class queues, and in its hold list, whose frames a cause has ended are discarded (R353,
R407). -/
def reapBad (p : Nat) : Nat → Dev → Dev
  | 0, d => d
  | fuel + 1, d =>
    let q := portOf d p
    let l := q.holdList ++ q.set.groups.flatMap fun g => g.2.queues.filterMap (·.head?)
    match l.find? fun i => (copyOf d i).bad.isSome with
    | none => d
    | some i => reapBad p fuel (forgetCopy d (copyOf d i))

/-- The frame that a port selected while another was in transmission starts, once the transmitter can start it (R461). One that
a cause has ended since is discarded (R353). -/
def startNext (d : Dev) (p : Nat) : Dev := match (portOf d p).next with
  | none => d
  | some (i, cost) =>
    if (copyOf d i).bad.isSome then forgetCopy d (copyOf d i)
    else if canTransmit d p && (portOf d p).tx.isNone then startCopy d p i cost else d

/-- The port may select its next frame: its transmitter is free, or the frame in transmission has paid and none has been
selected to follow it (R461). -/
def selects (d : Dev) (p : Nat) : Bool :=
  (portOf d p).next.isNone && match (portOf d p).tx with
    | none => true
    | some t => (copyOf d t.copy).fed

/-- The selected copy starts, or waits for the end of the frame in transmission (R461). -/
def takeSelected (d : Dev) (p : Nat) (h : Head) : Dev :=
  if (portOf d p).tx.isNone then startCopy d p h.copy h.cost else onPort d p fun q => { q with next := some (h.copy, h.cost) }

/-- SCHEDULER_SELECT: a port selects its next frame, or, when no head frame is eligible and WC_RELEASE is set, one whose
energy condition is waived; a frame in transmission is not waited for (R460, R461, R473). The sample of a selection lies in no
window whose boundary has not acted: the selection waits for that (R467, R519, R520). -/
def execSchedulerSelect (port : Nat) (s : State) : Host.Outcome State Fault Refusal :=
  onDev s fun d =>
    if !selects d port then startNext d port
    else if windowOver d || !canTransmit d port || !portShaperOpen d port then d
    else
      let d := markHolds (settleHold (reapBad port d.copies.length d) port) port
      match choose d port false with
      | some (h, q) => takeSelected (onPort d port fun _ => q) port h
      | none =>
        if !(portOf d port).set.wcRelease || (headsOf d port).any (eligible false) then d
        else match choose d port true with
          | some (h, q) => takeSelected (bumpPort (onPort d port fun _ => q) port cntEnergyRelease 1) port h
          | none => d

/- The end of a transmission. -/

/-- Time that a frame of `l` bytes takes on a port, with its per-frame overhead (R29, R55, R106). -/
def wireTime (d : Dev) (p l : Nat) : Nat :=
  let bytes := if isSpindle d p then 8 * (l / 8 + 2) else l + 20
  ceilDiv (bytes * 8 * 25) (2 * max 1 (payloadGbps d p))

/-- The port's transmitter is free again, and the frame selected to follow starts (R461). -/
def endTx (d : Dev) (p : Nat) (i : Nat) : Dev :=
  startNext (forgetCopy (onPort d p fun q => { q with tx := none, lastTx := d.now }) (copyOf d i)) p

/-- Bytes of its frame that the egress die holds for a copy: those whose sectors have crossed to it, and of those in cells that
can be read (R405, R406, R410). -/
def heldCount (d : Dev) (c : Copy) (f : Frame) : Nat :=
  let got := if c.own then sizeOf' f
    else if c.mc then (((dieOf d c.die).mcIn.find? fun m => m.fid == c.fid).map fun m => 32 * m.got).getD (sizeOf' f)
    else 32 * c.got
  min (min (sizeOf' f) got) (min f.kept c.kept)

/-- The bytes of a copy that are held when it is stomped, `n` of its frame's, without the frame's FCS if its last bytes are one:
a frame that has passed its checks or failed the FCS alone ends in one, and so do the bytes of every mirror copy (R405,
R406). -/
def heldBytes (f : Frame) (c : Copy) (seq reason n : Nat) : List Byte :=
  let fcs := f.kind != .received || f.good || reason == drRxFcs
  let raw := f.bytes.take (min n (sizeOf' f - (if fcs then 4 else 0)))
  match f.kind with
  | .mirror s egress => if f.mirSes.kind = 1 then
      let l := greBytes f s egress seq
      l.take (l.length - 4 - (sizeOf' f - 4 - raw.length))
    else raw
  | _ => rewriteBytes f c raw

/-- A copy in transmission is stomped (R112, R405, R406): a Spindle link sends the whole data blocks that it holds and the STOMP
block in place of the rest, Ethernet the bytes held without an FCS and then their complemented CRC-32. -/
def stompCopy (d : Dev) (p : Nat) (t : Tx) (c : Copy) (f : Frame) (reason code : Nat) : Dev :=
  let n := heldCount d c f
  let held := heldBytes f c t.seq reason n
  let full := if n < sizeOf' f then held
    else if f.kind != .received || f.good then outBytes f c t.seq else rewriteBytes f c f.bytes
  let sent := if isSpindle d p then full.take (full.length / 8 * 8) else held
  let d := payRest d p t c f sent.length
  let d := bumpPort (addTxts d p c f t true) p cntStompTx 1
  let d := if isSpindle d p then tookPlaces d p t.start sent.length else d
  let d := emitOn d p (if isSpindle d p then .stomp p code sent else .stomp p 0 (sent ++ leBytes 4 (crc32 sent ^^^ 0xFFFFFFFF)))
  endTx d p c.id

/-- The counts of a copy that has left (R319, R414, R450, R734). -/
def countSent (d : Dev) (p : Nat) (c : Copy) (f : Frame) (l : Nat) : Dev :=
  let d := bumpPort (bumpPort d p (cntTxFrames + c.tc) 1) p (cntTxBytes + c.tc) l
  let d := if c.cut then bumpPort d p cntCtFrames 1 else d
  let d := match dropTenant f with
    | some t => bump (bump d c.die (slotTenant t cntTenTxFrames) 1) c.die (slotTenant t cntTenTxBytes) l
    | none => d
  match f.kind with
  | .mirror s _ =>
    let d := bump d c.die (slotMirror s 1) l
    match dropTenant f with
    | some t => bump d c.die (slotTenant t cntTenMirBytes) l
    | none => d
  | _ => if c.mc then memberDone d c.die c.fid true else d

/-- A copy has left with its terminate (R103, R403, R734). -/
def sendCopy (d : Dev) (p : Nat) (t : Tx) (c : Copy) (f : Frame) : Dev :=
  let bytes := outBytes f c t.seq
  let d := payRest d p t c f bytes.length
  let d := countSent (addTxts d p c f t false) p c f bytes.length
  let d := if isSpindle d p then tookPlaces d p t.start bytes.length else d
  endTx (emitOn d p (.frame p (if isSpindle d p then startHeader t.head else 0) bytes)) p c.id

/-- Every byte of a copy is on hand at its port: its last byte has arrived on its die and, when it leaves on its ingress
chain, the chain is whole (R403). -/
def readyToEnd (c : Copy) (f : Frame) : Bool := c.ended && wholeFrame f && (!c.own || wholeOk f)

/-- FRAME_TX_END: the frame in transmission on a port has left with its last byte, or ends in a stomp (R403 to R408). What is
in transmission when d0 is lost, or when its die stops transmitting data, is finished (DESIGN CHOICE, log 56; R49). -/
def execFrameTxEnd (port : Nat) (s : State) : Host.Outcome State Fault Refusal :=
  onDev s fun d =>
    match (portOf d port).tx with
    | none => d
    | some t =>
      let c := copyOf d t.copy
      let f := frameOf d c.fid
      match c.bad with
      | some (reason, code) => stompCopy d port t c f reason code
      | none => if readyToEnd c f && expired d t.start (wireTime d port (wireBytes f)) then sendCopy d port t c f else d

/- Energy holds (R474). -/

/-- ENERGY_HOLD_CHECK: at a multiple of 1 µs, frames of a port whose hold time has reached 10 ms at that tick are dropped (R474,
R519). -/
def execEnergyHoldCheck (port : Nat) (s : State) : Host.Outcome State Fault Refusal :=
  onDev s fun d =>
    let q := portOf d port
    if !alive d (dieOfPort port) || lastAction d ≤ q.holdTick then d
    else
      let d := onPort d port fun q => { q with holdTick := lastAction d }
      let waiting := (List.range 8).flatMap (waitingIn d port)
      (waiting.filter fun i => (copyOf d i).holdAt.any fun t => decide (t + 10 * ms ≤ tickSample d)).foldl
        (fun d i => dropCopy d (copyOf d i) drEnergyHold) d

/- Commands (R495, R496). -/

/-- QOS_SCHED_PORT_SET on a port, when its die is among `l`: its shapers keep what they hold, up to the new bursts. -/
def applyQosSchedPortSet (l : List Nat) (p : BitVec 384) (d : Dev) : Dev :=
  let port := pf p 0 2
  let t := tickOf d
  if !l.contains (dieOfPort port) then d
  else onPort d port fun q =>
    let rates := (List.range 8).map fun c => pf p (16 + 2 * c) 2
    { q with
      portB := shaperAt (shaperAt q.portB t (q.set.shapeRate * 1000) q.set.shapeBurst) t (pf p 4 4 * 1000) (pf p 8 4)
      classB := (List.range 8).map fun c => shaperAt (shaperAt (q.classB.getD c {}) t (q.set.classMax.getD c 0 * 100000) innerBurst)
        t (rates.getD c 0 * 100000) innerBurst
      set := { q.set with
        wcRelease := bitOf (pf p 2 1) 0
        overhead := ps p 3 1
        shapeRate := pf p 4 4
        shapeBurst := pf p 8 4
        classMax := rates } }

/-- QOS_SCHED_PORT_SET. -/
def specQosSchedPortSet (d : Dev) (p : BitVec 384) : CmdSpec :=
  let burst := pf p 8 4
  { opcode := 0x0710, kind := .w, keepers := [0, dieOfPort (pf p 0 2)],
    checks := [ckPort d 0 (pf p 0 2), resv p 2 1 0xFE, badIf 3 (decide (ps p 3 1 < -32) || decide (ps p 3 1 > 64)),
      badIf 4 (pf p 4 4 > 1600000), badIf 8 (decide (burst < 9728) || decide (burst > 16777215)), resB p 12 4,
      badIf 16 ((List.range 8).any fun c => pf p (16 + 2 * c) 2 > 16000)],
    run := fun d => (applyQosSchedPortSet (aliveDies d) p d, {}) }

def execQosSchedPortSet (c : Cmd) (s : State) : Host.Outcome State Fault Refusal :=
  onDev s fun d => runCmd (specQosSchedPortSet d c.params) c d

/-- QOS_SCHED_GROUP_SET on a port, when its die is among `l`: deficits stay as they are (R496). -/
def applyQosSchedGroupSet (l : List Nat) (p : BitVec 384) (d : Dev) : Dev :=
  let port := pf p 0 2
  let t := tickOf d
  let g := bitsOf (pf p 2 1) 0 6
  if !l.contains (dieOfPort port) then d
  else onPort d port fun q =>
    let x := kget q.set.groups g {}
    let x := { x with
      weight := pf p 3 1
      minRate := pf p 4 4
      maxRate := pf p 8 4
      strict := pf p 12 1
      classW := (List.range 8).map fun c => pf p (16 + c) 1
      minB := shaperAt (shaperAt x.minB t (x.minRate * 1000) innerBurst) t (pf p 4 4 * 1000) innerBurst
      maxB := shaperAt (shaperAt x.maxB t (x.maxRate * 1000) innerBurst) t (pf p 8 4 * 1000) innerBurst }
    { q with set := { q.set with groups := kput q.set.groups g x } }

/-- QOS_SCHED_GROUP_SET. A MAX_RATE below MIN_RATE is found in MAX_RATE, the higher field (R550). -/
def specQosSchedGroupSet (d : Dev) (p : BitVec 384) : CmdSpec :=
  let min' := pf p 4 4
  let max' := pf p 8 4
  { opcode := 0x0711, kind := .w, keepers := [0, dieOfPort (pf p 0 2)],
    checks := [ckPort d 0 (pf p 0 2), resv p 2 1 0xC0, badIf 3 (pf p 3 1 == 0), badIf 4 (min' > 1600000),
      badIf 8 (decide (max' > 1600000) || (max' != 0 && decide (max' < min'))), resB p 13 3,
      badIf 16 ((List.range 8).any fun c => pf p (16 + c) 1 == 0)],
    run := fun d => (applyQosSchedGroupSet (aliveDies d) p d, {}) }

def execQosSchedGroupSet (c : Cmd) (s : State) : Host.Outcome State Fault Refusal :=
  onDev s fun d => runCmd (specQosSchedGroupSet d c.params) c d

/-- QOS_SCHED_MAP_SET on a port, when its die is among `l`: frames already queued stay in their group (R496). -/
def applyQosSchedMapSet (l : List Nat) (p : BitVec 384) (d : Dev) : Dev :=
  let port := pf p 0 2
  if !l.contains (dieOfPort port) then d
  else onPort d port fun q => { q with set := { q.set with
    groupMap := kputD q.set.groupMap (bitsOf (pf p 2 2) 0 10) (bitsOf (pf p 4 1) 0 6) 0 } }

/-- QOS_SCHED_MAP_SET. -/
def specQosSchedMapSet (d : Dev) (p : BitVec 384) : CmdSpec :=
  { opcode := 0x0712, kind := .w, keepers := [0, dieOfPort (pf p 0 2)],
    checks := [ckPort d 0 (pf p 0 2), resv p 2 2 0xFC00, resv p 4 1 0xC0, resB p 5 3],
    run := fun d => (applyQosSchedMapSet (aliveDies d) p d, {}) }

def execQosSchedMapSet (c : Cmd) (s : State) : Host.Outcome State Fault Refusal :=
  onDev s fun d => runCmd (specQosSchedMapSet d c.params) c d

end Sys2Proof.Machine
end

