-- ==== Sys2Proof/Machine/Stops.lean ====
section
/-! DEFINITION. What stops ports from outside them: parking a die, thermal stop and package stop (R489, R705, R706, R718,
R720 to R722). -/

namespace Sys2Proof.Machine

/-- A configured port is disabled as MODE 0 disables it and keeps its configuration (R489, R721). -/
def shutPort (d : Dev) (p : Nat) : Dev :=
  if !isPort d p then d else disablePort (if (portOf d p).link = .quarantine then endQuarantine d p false else d) p

/-- The configured ports of a die. -/
def portsOn (d : Dev) (n : Nat) : List Nat := (configured d).filter fun p => dieOfPort p == n

/-- The ports of a die come back with their configuration: slices with a port are ON and bring-up starts (R489, R722). -/
def restorePorts (d : Dev) (n : Nat) : Dev :=
  let d := (List.range 4).foldl (fun d s => if !isActive d || (dieOf d n).parked || d.thermal then fitSlice d n s true
    else fitSlice d n s false) d
  (portsOn d n).foldl (fun d p => if (portOf d p).link = .disabled then startBringup d p else d) d

/-- Every comb bank of a die but one starts closing, and a bank without a HELD cell is OFF at once (R487, R489). -/
def closeBanks (d : Dev) (n : Nat) : Dev :=
  noteFree (onComb d n fun b =>
    let ks := ((List.range 12).filter fun k => b.banks.getD k .off == .on).drop 1
    { b with
      banks := ks.foldl (fun l k => lmod l k fun _ =>
        if b.held.any fun h => h.cell / bankCells == k then .closing else .off) b.banks
      bankLog := ks.reverse ++ b.bankLog }) n

/-- A die is parked (R489). -/
def parkDie (d : Dev) (n : Nat) : Dev :=
  if n = 0 || !alive d n || (dieOf d n).parked then d
  else
    let d := (portsOn d n).foldl shutPort d
    closeBanks (onDie d n fun x => { x with parked := true, slices := x.slices.map fun s => { s with pow := .off } }) n

/-- A die is unparked: its ports' configuration is restored and their bring-up starts, and its deep store is ON 10 µs later
(R481, R489). -/
def unparkDie (d : Dev) (n : Nat) : Dev :=
  if !(dieOf d n).parked then d else restorePorts (onDie d n fun x => { x with parked := false, storeFrom := d.now + 10 * us }) n

/-- ALERT_N is driven (R718). -/
def setAlert (d : Dev) (on : Bool) : Dev := if d.alert = on then d else emit { d with alert := on } (.pin "ALERT_N" (!on))

/-- The conditions to leave thermal stop hold now (R722): T_now in 1/16 degree C. -/
def coolNow (d : Dev) : Bool :=
  !d.fault.level && (aliveDies d).all fun n => decide ((dieOf d n).tMax < (d.pkg.tLimNow - 10) * 16)

/-- Since when the conditions to leave thermal stop have held, kept up to date (R722). -/
def noteCool (d : Dev) : Dev :=
  { d with coolAt := if d.thermal && coolNow d then some (d.coolAt.getD d.now) else none }

/-- Thermal stop (R720, R721), in recovery boot as well: what waits at egress is dropped as DR_PORT_DOWN, the package fences, and every port but the
peer link of a paired package is held disabled, its slice OFF. -/
def enterThermal (d : Dev) : Dev :=
  if d.thermal || !(d.run == .running || d.run == .recovery) then d
  else
    let keep := fun p : Nat => d.ha.paired && p == 0x5C
    let ports := (configured d).filter fun p => !keep p
    let d := ports.foldl (fun d p => flushPort d p drPortDown) d
    let d := if d.ha.paired && d.ha.holder then fence d 2 0 true else d
    let d := ports.foldl shutPort { d with thermal := true }
    let d := onDies d (aliveDies d) fun x => { x with slices := x.slices.map fun s => { s with pow := .off } }
    let d := if d.ha.paired then wakeTx (onSlice d 0 3 fun x => { x with pow := .on }) 0x5C else d
    noteCool (setAlert d true)

/-- THERMAL_STOP_EXIT: the conditions have held together for 100 ms (R722). -/
def execThermalStopExit (s : State) : Host.Outcome State Fault Refusal :=
  onDev s fun d => match d.coolAt with
    | none => d
    | some t =>
      if !d.thermal || !coolNow d || !expired d t (100 * ms) then d
      else (aliveDies d).foldl restorePorts (setAlert { d with thermal := false, coolAt := none } false)

/-- Package stop (R705, R706): every port is held disabled, the peer link included, and only a package reset ends it. -/
def packageStop (d : Dev) : Dev :=
  if d.run = .packageStop || d.run = .reset then d
  else
    let d := (configured d).foldl shutPort d
    setAlert { d with run := .packageStop } true

/-- REFCLK_LOSS: a reference has been absent or off frequency for 2 µs (R705, R706). -/
def execRefclkLoss (s : State) : Host.Outcome State Fault Refusal := onDev s packageStop

end Sys2Proof.Machine
end

