-- ==== Sys2Proof/Machine/Power.lean ====
section
/-! DEFINITION. Energy windows, the power cap, the thermal forecast, parking of slices and comb banks, and the PWR_
commands (R465 to R498, R598, R599). -/

namespace Sys2Proof.Machine

/- The energy window (R465 to R472, R475, R477). -/

/-- Accounts that some die has an entry for, or some tenant record a quota. -/
def knownAccounts (d : Dev) : List Nat :=
  ((d.master.tenants.map (·.1)) ++ ((aliveDies d).flatMap fun n => (dieOf d n).accts.map (·.1))).eraseDups

/-- Energy quota of an account in pJ; none when it is exempt (R466). -/
def quotaPj (d : Dev) (a : Nat) : Option Nat :=
  let q := (tenantOf d.master a).energy
  if q = noLimit then none else some (q * 1000000)

def acctOf (d : Dev) (n a : Nat) : Acct := kget (dieOf d n).accts a {}

/-- Energy charged to an account on every die in the window before the last (R468, R469). -/
def chargedBefore (d : Dev) (a : Nat) : Nat := ((aliveDies d).map fun n => (acctOf d n a).u1).sum

/-- CAP_EFF in W × 20, of the CAP in force (R475, R480, R497): no forecast step counts while the override is set. -/
def capEffOf (d : Dev) : Nat :=
  (if d.pkg.capNow = 0 then partPower d.part else d.pkg.capNow) * (20 - (if d.pkg.override then 0 else d.pkg.k))

/-- scale_w of R468, as a fraction: `m` is the metered package energy of window w - 2 in pJ. -/
def scaleOf (d : Dev) (m : Nat) : Nat × Nat :=
  let as := (knownAccounts d).filter fun a => (quotaPj d a).isSome && decide (chargedBefore d a > 0)
  let charged := (as.map (chargedBefore d)).sum
  let quota := (as.map fun a => (quotaPj d a).getD 0).sum
  if !d.pkg.engaged || quota = 0 then (1, 1)
  else
    let e : Int := (d.pkg.capEff * 1000000000 : Nat) - 20 * ((m : Int) - charged)
    (min e.toNat (20 * quota), 20 * quota)

/-- share_d of R469 in pJ: quota, scale, energy of the account on the die and on all dies in window w - 2, and the number
of dies. -/
def shareOf (quota : Nat) (scale : Nat × Nat) (u total n : Nat) : Nat :=
  if total = 0 then quota * scale.1 / (scale.2 * n)
  else quota * scale.1 * (15 * u * n + total) / (scale.2 * 16 * n * total)

/-- K for the window after the next, from the metered and static energy of the window just ended in pJ (R465). -/
def nextK (x : Die) (metered static : Nat) : Nat :=
  let k := x.kNext.headD 65536
  if x.eDyn = 0 || decide (100 * x.eDyn < metered) then k
  else
    let step := (((metered : Int) - static) * 65536 - (k * x.eDyn : Nat)) / (16 * x.eDyn : Nat)
    (max 32768 (min 131072 ((k : Int) + step))).toNat

/- The power domains of a die and their states, of which 0 is ON (R481). -/

/-- A lane quad is OFF while each of its lanes is in L2 or outside any port. -/
def quadState (d : Dev) (n k : Nat) : Nat :=
  let quiet := fun l => match portOfLane d l with
    | some p => (portOf d p).power == .l2 || (portOf d p).link == .disabled
    | none => true
  atBit 0 ((List.range 4).all fun i => quiet (128 * n + 4 * k + i))

/-- SLICES as PWR_STATUS reports a slice (R495). -/
def sliceCode : SlicePow → Nat
  | .on => 0
  | .retention => 1
  | .off => 2

/-- State of a comb bank. -/
def bankCode : Bank → Nat
  | .on => 0
  | .closing => 1
  | .off => 2

/-- The deep store is in SELF_REFRESH while its die is parked (R489). -/
def storeState (x : Die) : Nat := atBit 0 x.parked

/-- The 72 domains of a die, as (row of R481, state): a slice's classifier is in RETENTION while the slice is not ON, and a
channel that the part does not use is OFF. -/
def domains (d : Dev) (n : Nat) : List (Nat × Nat) :=
  let x := dieOf d n
  ((List.range 24).map fun k => (0, quadState d n k))
    ++ ((List.range 4).map fun k => (1, sliceCode (sliceOf d n k).pow))
    ++ ((List.range 4).map fun k => (2, min 1 (sliceCode (sliceOf d n k).pow)))
    ++ ((List.range 12).map fun k => (3, bankCode (x.comb.banks.getD k .off)))
    ++ List.replicate 12 (4, 0)
    ++ ((List.range 7).map fun j => (5, atBit 0 (farDie d.part n j).isNone))
    ++ [(6, storeState x)] ++ List.replicate 8 (7, 0)

/-- Mean temperature of the sensors of a die at their latest sample (R465). -/
def meanTemp (x : Die) : Int := (x.temps.headD []).sum / 64

/-- E_static of a die: the leakage of its power domains in the states in which the window leaves them (R465; DESIGN CHOICE,
log 7). -/
def staticPj (d : Dev) (n : Nat) : Nat :=
  let x := dieOf d n
  ((domains d n).map fun s => Config.leakagePj s.1 (x.coefs.leak.getD s.1 0) s.2 (meanTemp x)).sum

/-- Calibration of a die at a window boundary (R465). -/
def calibrate (x : Die) (metered static : Nat) : Die :=
  if x.calFreeze then { x with eDyn := x.eLate, eLate := 0 }
  else { x with k := x.kNext.headD 65536, kNext := [nextK x metered static], eDyn := x.eLate, eLate := 0 }

/-- Mean power of a die over the window just ended, in µW. -/
def meanPower (x : Die) : Nat := if x.pN = 0 then 0 else x.pSum / x.pN

/-- Mean package power of the window just ended, in µW. -/
def meanTotal (d : Dev) : Nat := ((aliveDies d).map fun n => meanPower (dieOf d n)).sum

/-- The mean power of the window just ended is taken (R477, R598). -/
def takeMeans (d : Dev) : Dev :=
  let total := meanTotal d
  let d := onDies d (aliveDies d) fun x => { x with pMean := meanPower x / 1000, pSum := 0, pN := 0 }
  { d with pkg := { d.pkg with pMean := total / 1000 } }

/-- CAP comes into force, and the cap engages or is released (R477, R497): EV_PWR_CAP on a change, and a count of each window that begins engaged. `mean`
is the package power of the window just ended, in µW. -/
def judgeCap (d : Dev) (mean : Nat) : Dev :=
  let d := { d with pkg := { d.pkg with capNow := d.pkg.cap } }
  let p := { d.pkg with capEff := capEffOf d }
  let below : Nat := if 20 * mean < 900000 * p.capEff then p.below + 1 else 0
  let engaged := decide (20 * mean ≥ 970000 * p.capEff) || (p.engaged && decide (below < 10))
  let was := d.pkg.engaged
  let d := { d with pkg := { p with below := below, engaged := engaged } }
  let d := if engaged = was then d
    else raise d 0 evPwrCap (leBytes 1 (if engaged then 1 else 0) ++ leBytes 1 0 ++ leBytes 2 (p.capEff / 20))
  if engaged then bumpDie d 0 cntCapWindows 1 else d

/-- An account of a die at the start of a window (R469, R470), which the charges made since then meet. -/
def renewAccount (d : Dev) (dies a n : Nat) (total : Nat) : Dev :=
  let c := acctOf d n a
  let share : Nat := match quotaPj d a with
    | some q => shareOf q d.pkg.scale c.u1 total dies
    | none => 0
  let c := { c with
    share := share
    balance := if (quotaPj d a).isNone then 0 else max (min c.balance 0 + share - c.late) (-(share : Int))
    u1 := c.u0
    u0 := c.late
    late := 0 }
  checkOver (onDie d n fun x => { x with accts := kput x.accts a c }) n a

/-- Every account on every die at the start of a window. -/
def renewAccounts (d : Dev) : Dev :=
  let dies := aliveDies d
  (knownAccounts d).foldl (fun d a =>
    let total := chargedBefore d a
    dies.foldl (fun d n => renewAccount d dies.length a n total) d) d

/-- E_meas of die `n` in pJ (R465, R476): `metered` is what each die metered on the five rails that every die has, and
`aon` what d0 metered on VDD_AON, which it alone samples. -/
def energyMeas (metered : List Nat) (aon n : Nat) : Nat := metered.getD n 0 + if n = 0 then aon else 0

/-- ENERGY_WINDOW_BOUNDARY: the next window begins (R467 to R472, R477); the operands are the metered energies of
`energyMeas` in the window just ended. -/
def execEnergyWindowBoundary (metered : List Nat) (aon : Nat) (s : State) : Host.Outcome State Fault Refusal :=
  onDev s fun d =>
    if !windowOver d then d
    else
      let m := d.pkg.e0
      let w := d
      let d := judgeCap (takeMeans { d with pkg := { d.pkg with window := d.pkg.window + 1 } }) (meanTotal d)
      let d := { d with pkg := { d.pkg with
        scale := scaleOf d m
        e0 := ((aliveDies d).map (energyMeas metered aon)).sum } }
      let d := renewAccounts d
      (aliveDies d).foldl (fun d n => onDie d n fun x => calibrate x (energyMeas metered aon n) (staticPj w n)) d

/- Sensors and the forecast (R476, R478, R479, R599). -/

/-- A rail reading with its correction: gain in ppm and offset (R683). -/
def calibrated (raw : Nat) (gain offset : Int) : Nat := ((raw : Int) * (1000000 + gain) / 1000000 + offset).toNat

/-- Sum over ten samples of one sensor, from sample `at'` back; a sample that has not been taken counts as the newest
mean. -/
def tenSum (samples : List (List Int)) (at' s : Nat) : Int :=
  let l := ((samples.drop at').take 10).map fun t => t.getD s 0
  if l.isEmpty then 0 else l.sum * 10 / l.length

/-- T_now of a sensor in 1/16 degree C, rounded down. -/
def tNow (samples : List (List Int)) (s : Nat) : Int := tenSum samples 0 s / 10

/-- Forecast of a sensor in 1/160 degree C, the tenth of 1/16 degree C (R478): T_prev lies 1 ms earlier, which is 100 samples. -/
def sensorForecast (samples : List (List Int)) (horizon s : Nat) : Int :=
  let now := tenSum samples 0 s
  let prev := if samples.length < 110 then now else tenSum samples 100 s
  now + (now - prev) * horizon

/-- The greatest of a list. -/
def greatest : List Int → Int
  | [] => 0
  | [a] => a
  | a :: r => max a (greatest r)

/-- Sensors of a die (R476). -/
def sensorCount : Nat := 64

/-- F is the greatest forecast of the dies (R478). -/
def takeForecast (d : Dev) : Dev :=
  { d with pkg := { d.pkg with fcast := greatest ((aliveDies d).map fun n => (dieOf d n).fcast) } }

/-- The values that PWR_CAP_SET gave take effect at an update of k, and F is formed with them (R497). -/
def applyLimits (d : Dev) : Dev :=
  let d := { d with pkg := { d.pkg with tLimNow := d.pkg.tLimit, hznNow := d.pkg.horizon } }
  takeForecast (onDies d (aliveDies d) fun x => { x with
    fcast := greatest ((List.range sensorCount).map (sensorForecast x.temps d.pkg.hznNow)) })

/-- Package power, the sum of the latest rail readings of every die (R476). -/
def packagePower (d : Dev) : Nat := ((aliveDies d).map fun n => ((dieOf d n).rails.map fun r => r.1 * r.2).sum).sum

/-- POWER_SENSOR_SAMPLE: once in each 10 µs a die samples its rails (mV and mA) and its sensors (1/16 degree C) (R476, R478). T_MAX reaching
T_LIMIT sets INT_CAUSE.THERMAL (R599), and 110 degrees C stop the package (R720). -/
def execPowerSensorSample (die : Nat) (rails : List (Nat × Nat)) (temps : List Int) (s : State) :
    Host.Outcome State Fault Refusal :=
  onDev s fun d =>
    if !alive d die || d.run == .reset || d.now / (10 * us) ≤ (dieOf d die).sampled then d
    else
      let rails := (rails.take (if die = 0 then 6 else 5)).zipIdx.map fun r =>
        let c := railCalOf d die r.2
        (calibrated r.1.1 c.1 c.2.2, calibrated r.1.2 c.1 c.2.1)
      let temps := (List.range sensorCount).map fun k => temps.getD k 0 + sensorTrimOf d die k
      let d := onDie d die fun x =>
        let samples := (temps :: x.temps).take 110
        { x with
          rails := rails
          temps := samples
          tMax := greatest ((List.range sensorCount).map (tNow samples))
          fcast := greatest ((List.range sensorCount).map (sensorForecast samples d.pkg.hznNow))
          pSum := x.pSum + (rails.map fun r => r.1 * r.2).sum
          pN := x.pN + 1
          sampled := d.now / (10 * us) }
      let x := dieOf d die
      let d := takeForecast { d with pkg := { d.pkg with pNow := packagePower d } }
      let d := if decide (x.tMax ≥ (d.pkg.tLimNow * 16 : Nat)) && !x.hot then setCause (onDie d die fun x => { x with hot := true }) die intThermal
        else if decide (x.tMax < ((d.pkg.tLimNow - 2) * 16 : Nat)) then onDie d die fun x => { x with hot := false } else d
      noteCool (if x.tMax ≥ 1760 then enterThermal d else d)

/-- FORECAST_UPDATE: at a multiple of 10 ms the forecast step rises, falls or stays (R479, R480). -/
def execForecastUpdate (s : State) : Host.Outcome State Fault Refusal :=
  onDev s fun d =>
    let k' := tickOf d / 7812500
    if d.grain0.isNone || d.run != .running || k' ≤ d.pkg.kAt then d
    else
      let d := applyLimits { d with pkg := { d.pkg with kAt := k' } }
      let lim : Int := ((d.pkg.tLimit : Int) - d.pkg.margin) * 160
      let k := if d.pkg.override then 0
        else if d.pkg.fcast > lim then min (d.pkg.k + 1) 15
        else if d.pkg.fcast < lim - 320 then d.pkg.k - 1 else d.pkg.k
      if k = d.pkg.k then d
      else raise (bumpDie { d with pkg := { d.pkg with k := k } } 0 cntThermalStep 1) 0 evThermalStep
        (leBytes 1 k ++ leBytes 1 0 ++ leBytes 2 (unsignedOf 16 (d.pkg.fcast / 10)))

/- Parking of slices (R482, R485). -/

/-- No frame is in the slice's ingress queue, its header pipeline or the schedulers of its ports (R485). -/
def sliceEmpty (d : Dev) (n s : Nat) : Bool :=
  (sliceOf d n s).queue.isEmpty && (recircFree && ((portsOn d n).filter fun p => sliceOfPort p == s).all fun p => schedEmpty (portOf d p))
where
  recircFree : Bool := d.frames.all fun f => !(f.die == n && f.stage == .lookup && sliceOfPort f.port == s)

/-- The slice may park: parking is allowed on a die that runs, on a package that holds the lease (R482, R489, R654). -/
def slicePark (d : Dev) (n s : Nat) : Bool :=
  alive d n && !(dieOf d n).parked && isActive d && !d.thermal && d.run == .running && parkAllowed d n && decide (s < 4) && sliceEmpty d n s

/-- SLICE_RETENTION_ENTRY: a slice idle for 2 µs enters RETENTION (R485). -/
def execSliceRetentionEntry (die slice : Nat) (s : State) : Host.Outcome State Fault Refusal :=
  onDev s fun d =>
    let x := sliceOf d die slice
    if slicePark d die slice && x.pow == .on && expired d x.idleAt (2 * us) then
      onSlice d die slice fun x => { x with pow := .retention }
    else d

/-- SLICE_OFF_ENTRY: a slice in RETENTION that has been empty, and whose ports have all been in L2, DOWN or disabled, for 200 µs
enters OFF (R485). -/
def execSliceOffEntry (die slice : Nat) (s : State) : Host.Outcome State Fault Refusal :=
  onDev s fun d =>
    let x := sliceOf d die slice
    let ports := (portsOn d die).filter fun p => sliceOfPort p == slice
    if slicePark d die slice && x.pow == .retention && expired d x.idleAt (200 * us)
        && ports.all fun p => isResting (portOf d p) && expired d (portOf d p).restAt (200 * us) then
      onSlice d die slice fun x => { x with pow := .off }
    else d

/- Parking of comb banks (R487, R488). -/

/-- Banks of a die in a state. -/
def banksIn (b : Comb) (st : Bank) : List Nat := (List.range 12).filter fun k => b.banks.getD k .off == st

/-- BANK_CLOSE_START: the highest bank that is ON starts closing; its free cells leave F (R487). -/
def execBankCloseStart (die : Nat) (s : State) : Host.Outcome State Fault Refusal :=
  onDev s fun d =>
    let x := dieOf d die
    let b := x.comb
    let long := b.highSince.any fun t => expired d t ms
    if !alive d die || x.parked || d.run != .running || !parkAllowed d die || !x.bankPark || !long || decide ((banksIn b .on).length ≤ 4)
        || !(banksIn b .closing).isEmpty || !mayRaise d b.bankOffAt ms then d
    else match (banksIn b .on).getLast? with
      | none => d
      | some k => noteFree (onComb d die fun b => { b with banks := lmod b.banks k fun _ => .closing, bankLog := k :: b.bankLog }) die

/-- BANK_OFF: a closing bank whose cells are all FREE goes OFF, and would be the first to be woken (R487, R488). -/
def execBankOff (die : Nat) (s : State) : Host.Outcome State Fault Refusal :=
  onDev s fun d =>
    let b := combOf d die
    if !alive d die then d
    else match (banksIn b .closing).find? fun k => !b.held.any fun h => h.cell / bankCells == k with
      | none => d
      | some k => bumpDie (onComb d die fun b => { b with
        banks := lmod b.banks k fun _ => .off
        bankLog := k :: b.bankLog.filter (· != k)
        bankOffAt := some d.now }) die cntBankPark 1

/-- The runs of the numbers of `[a, a + n)` that satisfy `f`. -/
def runsOf (f : Nat → Bool) (a n : Nat) : List (Nat × Nat) :=
  (List.range n).foldl (fun l i => if f (a + i) then linkTail l (a + i) else l) []

/-- A cell is on the free list. -/
def onList (b : Comb) (c : Nat) : Bool := b.free.any fun r => decide (r.1 ≤ c) && decide (c < r.1 + r.2)

/-- FREE cells of a range that are not on the list are linked to its tail, but for those of retired groups (R337, R488). -/
def relink (b : Comb) (a n : Nat) : Comb :=
  { b with free := b.free ++ runsOf (fun c => !isHeld b c && !unlisted b c && !onList b c) a n }

/-- BANK_WAKE: the bank that last began closing or went OFF is ON again and its FREE cells are relinked (R488). -/
def execBankWake (die : Nat) (s : State) : Host.Outcome State Fault Refusal :=
  onDev s fun d =>
    let x := dieOf d die
    let b := x.comb
    if !alive d die || x.parked || !(decide (sharedFree b < 32768) || !parkAllowed d die) || !mayRaise d b.bankWakeAt (4 * us) then d
    else match b.bankLog with
      | [] => d
      | k :: rest => noteFree (onComb d die fun b => relink
          { b with banks := lmod b.banks k fun _ => .on, bankLog := rest, bankWakeAt := some d.now } (bankCells * k) bankCells) die

/- Commands (R495 to R498). -/

/-- PWR_CAP_SET: package-wide values; k is unchanged (R497). -/
def specPwrCapSet (d : Dev) (p : BitVec 384) : CmdSpec :=
  let cap := pf p 0 2
  let m := partPower d.part
  { opcode := 0x0720, kind := .w, keepers := aliveDies d,
    checks := [badIf 0 (cap != 0 && (decide (5 * cap < 2 * m) || decide (cap > m))), badIf 2 (decide (pf p 2 1 < 85) || decide (pf p 2 1 > 105)),
      badIf 3 (pf p 3 1 > 20), badIf 4 (decide (pf p 4 2 < 10) || decide (pf p 4 2 > 500)), resB p 6 2],
    run := fun d => ({ d with pkg := { d.pkg with cap := cap, tLimit := pf p 2 1, margin := pf p 3 1, horizon := pf p 4 2 } }, {}) }

def execPwrCapSet (c : Cmd) (s : State) : Host.Outcome State Fault Refusal :=
  onDev s fun d => runCmd (specPwrCapSet d c.params) c d

/-- PWR_POLICY_SET on the named dies (R495). -/
def specPwrPolicySet (d : Dev) (p : BitVec 384) : CmdSpec :=
  let mask := pf p 0 1
  let flags := pf p 1 1
  let l2 := pf p 4 4
  { opcode := 0x0721, kind := .w, keepers := 0 :: bitList 8 mask,
    checks := [ckMask d 0 mask, badIf 1 (decide (flags ≥ 16) || flags % 4 == 3), resB p 2 2,
      badIf 4 (l2 != 0 && (decide (l2 < 3) || decide (l2 > 60000)))],
    run := fun d => (onDies d (bitList 8 mask) fun x => { x with
      park := flags % 4
      bankPark := bitOf flags 2
      calFreeze := bitOf flags 3
      l2Delay := l2 }, {}) }

def execPwrPolicySet (c : Cmd) (s : State) : Host.Outcome State Fault Refusal :=
  onDev s fun d => runCmd (specPwrPolicySet d c.params) c d

/-- PWR_STATUS of a die (R495, R498). -/
def specPwrStatus (d : Dev) (p : BitVec 384) : CmdSpec :=
  let n := pf p 0 1
  { opcode := 0x0722, kind := .r, wide := true, any := true, keepers := [n], checks := [ckDie d 0 n],
    run := fun d =>
      let x := dieOf d n
      (d, okResult (leBytes 4 d.pkg.pMean ++ leBytes 2 (capEffOf d / 20) ++ leBytes 1 d.pkg.k
        ++ leBytes 1 (atBit 0 d.pkg.engaged + atBit 1 d.pkg.override + atBit 2 (parkAllowed d n))
        ++ leBytes 2 (unsignedOf 16 x.tMax) ++ leBytes 2 (unsignedOf 16 (d.pkg.fcast / 10)) ++ leBytes 4 x.pMean
        ++ leBytes 1 (((List.range 4).map fun k => sliceCode (sliceOf d n k).pow * 4 ^ k).sum)
        ++ leBytes 1 (12 - (banksIn x.comb .on).length) ++ leBytes 2 0 ++ leBytes 4 x.k)) }

def execPwrStatus (c : Cmd) (s : State) : Host.Outcome State Fault Refusal :=
  onDev s fun d => runCmd (specPwrStatus d c.params) c d

/-- A value in a field of 32 bits; one that does not fit reads as a value the spec does not state (log 18). -/
def fit32 (d : Dev) (v : Int) (lo hi : Int) : Nat × Dev := if lo ≤ v ∧ v < hi then (unsignedOf 32 v, d) else takeUnstated d

/-- PWR_ACCT_GET (R495, R498). -/
def specPwrAcctGet (d : Dev) (p : BitVec 384) : CmdSpec :=
  let a := pf p 0 2
  let n := pf p 2 1
  { opcode := 0x0723, kind := .r, wide := true, any := true, keepers := [n],
    checks := [resv p 0 2 0xFC00, ckDie d 2 n, resB p 3 1],
    run := fun d =>
      let x := acctOf d n a
      let exempt := (quotaPj d a).isNone
      let budget := match quotaPj d a with
        | some q => q * d.pkg.scale.1 / (d.pkg.scale.2 * 1000000)
        | none => noLimit
      let share := fit32 d (x.share / 1000 : Nat) 0 4294967296
      let bal := fit32 share.2 (if exempt then 0 else Int.tdiv x.balance 1000) (-2147483648) 2147483648
      (bal.2, okResult (leBytes 4 budget ++ leBytes 4 share.1 ++ leBytes 4 bal.1 ++ leBytes 4 0 ++ leBytes 8 d.pkg.window)) }

def execPwrAcctGet (c : Cmd) (s : State) : Host.Outcome State Fault Refusal :=
  onDev s fun d => runCmd (specPwrAcctGet d c.params) c d

/-- PWR_MODEL_GET (R495, R498). -/
def specPwrModelGet (d : Dev) (p : BitVec 384) : CmdSpec :=
  let n := pf p 0 1
  { opcode := 0x0724, kind := .r, wide := true, any := true, keepers := [n], checks := [ckDie d 0 n],
    run := fun d =>
      let c := (dieOf d n).coefs
      (d, okResult ((c.lane.flatMap (leBytes 2)) ++ leBytes 2 c.lookup ++ leBytes 2 c.cellW ++ leBytes 2 c.cellR ++ leBytes 2 c.storeW
        ++ leBytes 2 c.storeR ++ leBytes 2 c.sector ++ leBytes 2 0 ++ leBytes 4 (dieOf d n).k)) }

def execPwrModelGet (c : Cmd) (s : State) : Host.Outcome State Fault Refusal :=
  onDev s fun d => runCmd (specPwrModelGet d c.params) c d

end Sys2Proof.Machine
end

