-- ==== Sys2Proof/Machine/TableCmds.lean ====
section
/-! DEFINITION. The table commands (R288 to R296), and the events of learning, aging and table errors (R252 to R268,
R281 to R287). -/

namespace Sys2Proof.Machine

/- Journal entries of the learned MAC table (R646). -/

def journalRemove (d : Dev) (n i : Nat) : Dev := journal d (.macRemove n i)

/-- Tenants that a die shows OVER_QUOTA, and that a removal may have brought back under their quotas, are judged again
(R188). -/
def settleOverOn (d : Dev) (n : Nat) : Dev := (dieOf d n).overQ.foldl (fun d e => checkOver d n e.1) d

/-- The same on every die. -/
def settleOver (d : Dev) : Dev := (aliveDies d).foldl settleOverOn d

/- TBL_MAC_ADD (R288, R289). -/

/-- MAC address of a parameter field in wire order, first byte highest. -/
def macField (p : BitVec 384) (off : Nat) : Nat := ofBe (pbytes p off 6)

/-- Install a static entry on one die: in place, or inserted with any eviction journaled; none without room (R289). -/
def addStatic (d : Dev) (n : Nat) (e : MacEntry) : Option Dev :=
  match macFind (dieOf d n) e.key with
  | some (i, _) => some (macWrite d n i e)
  | none => (macInsert d n e).map fun r => match r.1.victim with
    | some v => journalRemove r.2 n v
    | none => r.2

/-- Install on the dies in order; none and the state with what was written removed again when one has no room. -/
def addStaticAll (e : MacEntry) : List Nat → List Nat → Dev → Bool × Dev
  | [], _, d => (true, d)
  | n :: r, done, d => match addStatic d n e with
    | some d' => addStaticAll e r (n :: done) d'
    | none => (false, onDies d done fun x => macClear x fun o => o.key == e.key)

def staticOfParams (p : BitVec 384) : MacEntry :=
  { static := true, key := macKey (pf p 0 2) (macField p 2), group := pf p 8 1 == 1, dest := pf p 10 2 }

def specTblMacAdd (d : Dev) (p : BitVec 384) : CmdSpec :=
  let kind := pf p 8 1
  let r := addStaticAll (staticOfParams p) (aliveDies d) [] d
  { opcode := 0x0401, kind := .w, keepers := aliveDies d,
    checks := [resv p 0 2 0xC000, badIf 8 (kind > 1), badIf 8 (kind == 1 && !isGroup (macField p 2)), resB p 9 1,
      badIf 10 (kind == 0 && decide (pf p 10 2 ≥ 4096)), resB p 12 4],
    late := if r.1 then none else some stNoRoom,
    run := fun d =>
      let r := addStaticAll (staticOfParams p) (aliveDies d) [] d
      (settleOver r.2, {}) }

/-- TBL_MAC_ADD; an attempt that ends with NO_ROOM leaves its evictions (R289). -/
def execTblMacAdd (c : Cmd) (s : State) : Host.Outcome State Fault Refusal :=
  onDev s fun d =>
    let sp := specTblMacAdd d c.params
    match refusal d c sp with
    | some r =>
      if r.status = stNoRoom ∧ canStart d c then
        complete (fetchCmd (settleOver (addStaticAll (staticOfParams c.params) (aliveDies d) [] d).2) c) c sp.opcode 0 r
      else runCmd sp c d
    | none => runCmd sp c d

/-- TBL_MAC_DEL removes only an entry of the kind that STATIC names (R290). -/
def specTblMacDel (d : Dev) (p : BitVec 384) : CmdSpec :=
  let static := bitOf (pf p 8 1) 0
  let mask := pf p 9 1
  let key := macKey (pf p 0 2) (macField p 2)
  let dies := if static then aliveDies d else bitList 8 mask
  { opcode := 0x0402, kind := .w, keepers := 0 :: dies,
    checks := [resv p 0 2 0xC000, resv p 8 1 0xFE,
      ⟨9, !static && (bitList 8 mask).any fun n => !alive d n, false⟩, resB p 10 6],
    run := fun d => (settleOver (onDies d dies fun x => macClear x fun e => e.key == key && e.static == static), {}) }

def execTblMacDel (c : Cmd) (s : State) : Host.Outcome State Fault Refusal :=
  onDev s fun d => runCmd (specTblMacDel d c.params) c d

/-- A learned entry matches the selected fields of TBL_MAC_FLUSH (R291). -/
def flushHit (p : BitVec 384) (e : MacEntry) : Bool :=
  let sel := pf p 1 1
  !e.static && (!bitOf sel 0 || e.key / 2 ^ 48 == bitsOf (pf p 2 2) 0 14)
    && (!bitOf sel 1 || (!e.group && e.dest == bitsOf (pf p 4 2) 0 12))
    && (!bitOf sel 2 || e.tenant == bitsOf (pf p 6 2) 0 10)

/-- Remove the learned entries of a die for which `f` holds, journaling each (R646). -/
def flushDie (f : MacEntry → Bool) (d : Dev) (n : Nat) : Dev :=
  let gone := ((dieOf d n).mac.filter fun e => f e.2).map (·.1)
  let d := gone.foldl (fun d i => journalRemove d n i) d
  onDie d n fun x => macClear x f

def specTblMacFlush (d : Dev) (p : BitVec 384) : CmdSpec :=
  let mask := pf p 0 1
  { opcode := 0x0403, kind := .w, keepers := 0 :: bitList 8 mask,
    checks := [ckMask d 0 mask, resv p 1 1 0xF8, resv p 2 2 0xC000, resv p 4 2 0xF000, resv p 6 2 0xFC00],
    run := fun d =>
      let tenants := (bitList 8 mask).map fun n => (n, ((dieOf d n).mac.map (·.2.tenant)).eraseDups)
      let d := (bitList 8 mask).foldl (flushDie (flushHit p)) d
      (tenants.foldl (fun d e => e.2.foldl (fun d t => checkOver d e.1 t) d) d, {}) }

def execTblMacFlush (c : Cmd) (s : State) : Host.Outcome State Fault Refusal :=
  onDev s fun d => runCmd (specTblMacFlush d c.params) c d

def specTblMacGet (d : Dev) (p : BitVec 384) : CmdSpec :=
  let n := pf p 8 1
  let key := macKey (pf p 0 2) (macField p 2)
  { opcode := 0x0404, kind := .r, any := true, keepers := [n],
    checks := [resv p 0 2 0xC000, ckDie d 8 n, resB p 9 7],
    run := fun d => (d, okResult (match macLookup (dieOf d n) key with
      | none => []
      | some (i, e) => leBytes 1 1 ++ leBytes 1 (atBit 0 e.static + atBit 1 e.act + e.age * 4 + atBit 4 e.group)
          ++ leBytes 2 e.dest ++ leBytes 2 e.tenant ++ leBytes 2 0 ++ leBytes 4 i)) }

def execTblMacGet (c : Cmd) (s : State) : Host.Outcome State Fault Refusal :=
  onDev s fun d => runCmd (specTblMacGet d c.params) c d

def specTblMacConfig (d : Dev) (p : BitVec 384) : CmdSpec :=
  let mask := pf p 0 1
  let period := pf p 2 2
  { opcode := 0x0405, kind := .w, keepers := 0 :: bitList 8 mask,
    checks := [ckMask d 0 mask, badIf 1 (pf p 1 1 > 1), badIf 2 (decide (period < 1) || decide (period > 3600)),
      resB p 4 4],
    run := fun d => (onDies d (bitList 8 mask) fun x => { x with
      evictOldest := pf p 1 1 == 1
      agePeriod := period
      ageSweep := rollSweep x.ageSweep x.agePeriod d.now }, {}) }

def execTblMacConfig (c : Cmd) (s : State) : Host.Outcome State Fault Refusal :=
  onDev s fun d => runCmd (specTblMacConfig d c.params) c d

/-- TBL_BD_SET takes effect on the dies `l` (R293). -/
def applyTblBdSet (l : List Nat) (p : BitVec 384) (d : Dev) : Dev :=
  let flags := pf p 2 1
  let r : Bd := { floodEn := bitOf flags 0, group := pf p 4 2, routeEn := bitOf flags 1, mac := macField p 6 }
  let b := bitsOf (pf p 0 2) 0 14
  onDies (onTablesOf l d fun t => { t with bds := kput t.bds b r }) l fun x => parGood x 4 b

def specTblBdSet (d : Dev) (p : BitVec 384) : CmdSpec :=
  { opcode := 0x0406, kind := .w, keepers := aliveDies d,
    checks := [resv p 0 2 0xC000, resv p 2 1 0xFC, resB p 3 1, badIf 6 (bitOf (pf p 2 1) 1 && isGroup (macField p 6))],
    run := fun d => (applyTblBdSet (aliveDies d) p d, {}) }

def execTblBdSet (c : Cmd) (s : State) : Host.Outcome State Fault Refusal :=
  onDev s fun d => runCmd (specTblBdSet d c.params) c d

/- Routes (R276, R278, R294). Which routes are expanded is a free choice within R277 (log entry 16). -/

def routeOfParams (p : BitVec 384) : RouteKey :=
  let family := pf p 2 1
  { vrf := bitsOf (pf p 0 2) 0 10, family := family, len := pf p 3 1,
    prefixN := if family = 4 then ofBe (pbytes p 16 4) else ofBe (pbytes p 16 16) }

/-- Bounds of FAMILY, LENGTH and PREFIX (R294). -/
def routeChecks (p : BitVec 384) : List Chk :=
  let k := routeOfParams p
  [resv p 0 2 0xFC00, badIf 2 (k.family != 4 && k.family != 6), badIf 3 (k.len > addrBits k.family),
   badIf 16 (decide (k.len ≤ addrBits k.family) && (cutAddr k.family k.len k.prefixN != k.prefixN
     || (k.family == 4 && pf p 20 12 != 0)))]

/-- The routes after a TBL_ROUTE_SET. -/
def routesAfter (t : Tables) (p : BitVec 384) : List (RouteKey × NextHop) :=
  if bitOf (pf p 4 1) 0 then
    kput t.routes (routeOfParams p) { drop := bitOf (pf p 4 1) 1, ve := pf p 6 2, mac := macField p 8 }
  else kdel t.routes (routeOfParams p)

/-- A TBL_ROUTE_SET adds a route that is not installed. -/
def newRoute (t : Tables) (p : BitVec 384) : Bool := bitOf (pf p 4 1) 0 && (kget? t.routes (routeOfParams p)).isNone

/-- The stored lengths that the compiler asks for: a new route lets it choose anew, a replaced or a removed one leaves the
choices that R277 still allows (R277, R294). -/
def lensWanted (t : Tables) (routes : List (RouteKey × NextHop)) (p : BitVec 384) : List (RouteKey × Nat) :=
  if newRoute t p then
    routes.filterMap fun r =>
      let l := Config.storedLength t.compiles r.1.vrf r.1.family r.1.len r.1.prefixN
      if mayExpand routes r.1 l then some (r.1, l) else none
  else t.routeLens.filter fun e => (kget? routes e.1).isSome && mayExpand routes e.1 e.2

/-- Every die has room for the routes with none of them expanded (R278). -/
def routesFit (d : Dev) (routes : List (RouteKey × NextHop)) : Bool :=
  (aliveDies d).all fun n => (lpmSwap (compiled routes []) (dieOf d n)).isSome

/-- The stored entries of the present routes with those of the present expansions that are among `lens`. -/
def keptRoutes (t : Tables) (lens : List (RouteKey × Nat)) : List (RouteKey × NextHop) :=
  compiled t.routes (t.routeLens.filter fun e => lens.contains e)

/-- Add, replace or remove a route on every die (R276 to R279, R294). -/
def routeApply (d : Dev) (p : BitVec 384) : Dev :=
  let own := fun k => covers (routeOfParams p) k && kget? d.master.routes (routeOfParams p) != none
  let routes := routesAfter d.master p
  let want := lensWanted d.master routes p
  let kept := keptRoutes d.master
  let lens := fitLens ((aliveDies d).map (dieOf d)) kept routes (want.length + 1) want
  shadowed (fun d =>
    onDies (onTables d fun t => { t with routes := routes, routeLens := lens, compiles := t.compiles + 1 }) (aliveDies d)
      fun x => lpmWritten own (routeOfParams p).family x (lpmMove (kept lens) (compiled routes lens) x)) d

def specTblRouteSet (d : Dev) (p : BitVec 384) : CmdSpec :=
  { opcode := 0x0407, kind := .w, keepers := aliveDies d,
    checks := routeChecks p ++ [resv p 4 1 0xFC, resB p 5 1, resv p 6 2 0xF000, resB p 14 2],
    late := if newRoute d.master p && !routesFit d (routesAfter d.master p) then some stNoRoom else none,
    run := fun d => (routeApply d p, {}) }

def execTblRouteSet (c : Cmd) (s : State) : Host.Outcome State Fault Refusal :=
  onDev s fun d => runCmd (specTblRouteSet d c.params) c d

def specTblRouteGet (p : BitVec 384) : CmdSpec :=
  let k := routeOfParams p
  { opcode := 0x0408, kind := .r, any := true, keepers := [0], checks := routeChecks p ++ [resB p 4 12],
    run := fun d => (d, okResult (match kget? d.master.routes k with
      | none => []
      | some h => leBytes 1 (1 + atBit 1 h.drop) ++ leBytes 1 0 ++ leBytes 2 h.ve ++ beBytes 6 h.mac ++ leBytes 2 0
          ++ leBytes 4 (storedKeys d.master.routes k (kget d.master.routeLens k k.len)).length)) }

def execTblRouteGet (c : Cmd) (s : State) : Host.Outcome State Fault Refusal :=
  onDev s fun d => runCmd (specTblRouteGet c.params) c d

/- Error modes (R280 to R287, R295). -/

/-- TBL_ERR_MODE_SET: a table set to SHADOW has its region filled, and its walk starts, before the command completes (R284,
R295). -/
def specTblErrModeSet (d : Dev) (p : BitVec 384) : CmdSpec :=
  let n := pf p 0 1
  let t := pf p 1 1
  let mode := pf p 2 1
  let period := pf p 4 2
  let bad := if mode = 1 then decide (period < 1) || decide (period > 3600) else period != 0
  { opcode := 0x0409, kind := .w, keepers := [0, n],
    checks := [ckDie d 0 n, badIf 1 (t > 3), badIf 2 (decide (mode > 1) || (t == 3 && mode == 1)), resB p 3 1,
      badIf 4 bad, resB p 6 2, badIf 8 (pf p 8 8 % 4096 != 0 || (mode != 1 && pf p 8 8 != 0))],
    run := fun d =>
      let d := onDie d n fun x =>
        let e := kget x.errModes t {}
        { x with errModes := kput x.errModes t { e with
            shadow := mode == 1
            period := period
            base := pf p 8 8
            sweep := { at' := d.now, period := period } } }
      (if mode = 1 then fillRegion d n t else d, {}) }

def execTblErrModeSet (c : Cmd) (s : State) : Host.Outcome State Fault Refusal :=
  onDev s fun d => runCmd (specTblErrModeSet d c.params) c d

def specTblStatus (d : Dev) (p : BitVec 384) : CmdSpec :=
  let n := pf p 0 1
  { opcode := 0x040A, kind := .r, any := true, keepers := [n], checks := [ckDie d 0 n],
    run := fun d =>
      let x := dieOf d n
      let learned := (x.mac.filter fun e => !e.2.static).length
      (d, okResult (leBytes 4 learned ++ leBytes 4 (x.mac.length - learned) ++ leBytes 4 (lpmTable x 4).length
        ++ leBytes 4 (lpmTable x 6).length)) }

def execTblStatus (c : Cmd) (s : State) : Host.Outcome State Fault Refusal :=
  onDev s fun d => runCmd (specTblStatus d c.params) c d

/- Learning (R252 to R257). -/

def journalLearn (d : Dev) (n : Nat) (i : Nat) (e : MacEntry) (r : MacPut) : Dev :=
  journal d (.learn n e.key e.dest e.tenant i e.group r.moves r.victim)

/-- A NEW event is judged against the quota and placed (R256, R262, R263). -/
def learnNew (d : Dev) (n : Nat) (ev : Learn) : Dev :=
  if !macAdmits (dieOf d n) ev.tenant then bump d n (slotTenant ev.tenant cntLearnQuota) 1
  else
    let e : MacEntry := { key := ev.key, dest := ev.ve, tenant := ev.tenant, act := true }
    match macInsert d n e with
    | none => bumpDie d n cntMacFull 1
    | some r => journalLearn r.2 n r.1.index e r.1

/-- A MOVE event whose entry stands at index `i` (R257). -/
def learnMove (d : Dev) (n : Nat) (ev : Learn) (i : Nat) (old : MacEntry) : Dev :=
  let new : MacEntry := { key := ev.key, dest := ev.ve, tenant := ev.tenant, act := true }
  let put := fun d => journalLearn (bumpDie (macWrite d n i new) n cntMacMove 1) n i new ⟨i, [], none⟩
  if old.tenant = ev.tenant then put d
  else if macAdmits (dieOf d n) ev.tenant then put d
  else bump (journalRemove (macDrop d n i) n i) n (slotTenant ev.tenant cntLearnQuota) 1

/-- The oldest learn event of a die is judged again and carried out (R255); one that has waited 20 µs is dropped
(R254). It gives way to forced units (R492). -/
def execLearnEvent (die : Nat) (s : State) : Host.Outcome State Fault Refusal :=
  onDev s fun d =>
    match (dieOf d die).learnQ with
    | [] => d
    | ev :: r =>
      if !learns d die || forcedBelow d die 6 then d
      else
        let d := onDie d die fun x => { x with learnQ := r }
        if expired d ev.at' (20 * us) then bumpDie d die cntLearnDrop 1
        else
          let before := macLookup (dieOf d die) ev.key
          let d := match before with
            | none => learnNew d die ev
            | some (i, e) =>
              if !ev.move then d
              else if e.static then
                (if !e.group && e.dest == ev.ve then d else bumpDie d die cntMacStaticConflict 1)
              else if !e.group && e.dest == ev.ve then d
              else learnMove d die ev i e
          settleOverOn ((ev.tenant :: (before.toList.map (·.2.tenant))).foldl (fun d t => checkOver d die t) d) die

/-- A learn event that has not completed within 20 µs is dropped (R254). -/
def execLearnEventTimeout (die : Nat) (s : State) : Host.Outcome State Fault Refusal :=
  onDev s fun d =>
    match (dieOf d die).learnQ with
    | [] => d
    | ev :: r =>
      if alive d die && expired d ev.at' (20 * us) then
        bumpDie (onDie d die fun x => { x with learnQ := r }) die cntLearnDrop 1
      else d

/-- One visit of the aging sweep, when it is due, not yet made in its pass and given its slot (R264 to R266, R491 to R493).
The standby's sweep does not run (R647). -/
def execAgingVisit (die index : Nat) (s : State) : Host.Outcome State Fault Refusal :=
  onDev s fun d =>
    if !learns d die || decide (index ≥ 262144) then d
    else
    let slot := (agingDue (dieOf d die) d.now index).bind fun w =>
      if agingAny d die fun t => decide (t < sweepDue w 262144 index) then none
      else (takeSlot d die 3 (sweepDue w 262144 index) (100 * ms)).map fun d =>
        onDie d die fun x => { x with ageSweep := { w with pos := index + 1 } }
    match slot with
    | none => d
    | some d =>
    match (dieOf d die).mac.find? fun e => e.1 == index && !parBad (dieOf d die) 3 index with
    | none => d
    | some (i, e) =>
      if e.static then d
      else if e.act then macWrite d die i { e with act := false, age := 0 }
      else if e.age < 3 then macWrite d die i { e with age := e.age + 1 }
      else checkOver (journalRemove (macDrop d die i) die i) die e.tenant

/- Table errors (R281, R282, R286). The error itself is the operand of the event. -/

/-- An entry read with bad parity is repaired; an error that no lookup has read before is counted (R281). A learned MAC entry
is removed, and every other entry is rewritten from the master copy, which leaves it as it was (R282). -/
def execTableParityRepair (die table index : Nat) (s : State) : Host.Outcome State Fault Refusal :=
  onDev s fun d =>
    if !alive d die || table > 4 then d
    else
      let d := if parBad (dieOf d die) table index then onDie d die fun x => parGood x table index
        else parityError d die table index
      match (dieOf d die).mac.find? fun e => e.1 == index with
      | some (i, e) =>
        if table = 3 ∧ !e.static then checkOver (journalRemove (macDrop d die i) die i) die e.tenant else d
      | none => d

/-- The compare engine compares one image, when it is due, not yet made in its pass and given its slot (R285, R492, R493);
where the image and its entry differ, firmware rewrites the wrong side or sides from the master copy (R286). -/
def execShadowCompareBlock (die table index : Nat) (chipBad imageBad : Bool) (s : State) :
    Host.Outcome State Fault Refusal :=
  onDev s fun d =>
    let x := dieOf d die
    let e := kget x.errModes table {}
    if !alive d die || table > 2 || !e.shadow || x.halted.contains 1 || decide (index ≥ shadowCount table) then d
    else
      let count := shadowCount table
      let slot := (sweepAt e.sweep e.period count index d.now).bind fun w =>
        (takeSlot d die 4 (sweepDue w count index) sec).map fun d => onDie d die fun x =>
          { x with errModes := kput x.errModes table { e with sweep := { w with pos := index + 1 } } }
      match slot with
      | none => d
      | some d =>
        if !(chipBad || imageBad) then d
        else
          let d := if chipBad then onDie d die fun x => parGood x table index else d
          let d := if imageBad then writeImage d die die table index else d
          raise (bumpDie d die (cntTblShadow + table) 1) die evTblShadow
            (leBytes 1 table ++ leBytes 1 (atBit 0 chipBad + atBit 1 imageBad) ++ leBytes 2 0 ++ leBytes 4 index)

end Sys2Proof.Machine
end

