-- ==== Sys2Proof/Machine/Time.lean ====
section
/-! DEFINITION. Time domains, the transmit timestamp queue, the PPS pins and scheduled actions (chapter 12). -/

namespace Sys2Proof.Machine

def domainOf (d : Dev) (k : Nat) : Domain := d.domains.getD k {}

/-- The exact grain count, before its wrap at 2^64 (R499). -/
def tickNow (d : Dev) : Nat := sinceStart d / 16

/- The embedded commands of scheduled actions (R523). -/

/-- The dies that an embedded command names. -/
def embedDies (d : Dev) (op : Nat) (p : BitVec 384) : List Nat :=
  let l := match op with
    | 0x0601 | 0x070B | 0x0501 => bitList 8 (pf p 0 1)
    | 0x0603 | 0x0406 => List.range 8
    | _ => [dieOfPort (pf p 0 2)]
  l.filter (alive d)

/-- An embedded command takes effect on the dies `l`. -/
def applyEmbed (l : List Nat) (op : Nat) (p : BitVec 384) (record : List Byte) (d : Dev) : Dev := match op with
  | 0x0710 => applyQosSchedPortSet l p d
  | 0x0711 => applyQosSchedGroupSet l p d
  | 0x0712 => applyQosSchedMapSet l p d
  | 0x070B => applyQosWredSet l p d
  | 0x0709 => applyQosCtSet l p d
  | 0x0601 => applyPolSet l p d
  | 0x0603 => applyMirSet l p d
  | 0x0406 => applyTblBdSet l p d
  | 0x0501 => applyClsRuleSet l p record d
  | _ => d

/-- The command that an embedded block stands for, if a scheduled action may hold it (R523). -/
def embedSpec (d : Dev) (op : Nat) (p : BitVec 384) (record : List Byte) : Option CmdSpec := match op with
  | 0x0710 => some (specQosSchedPortSet d p)
  | 0x0711 => some (specQosSchedGroupSet d p)
  | 0x0712 => some (specQosSchedMapSet d p)
  | 0x070B => some (specQosWredSet d p)
  | 0x0709 => some (specQosCtSet d p)
  | 0x0601 => some (specPolSet d p)
  | 0x0603 => some (specMirSet d p)
  | 0x0406 => some (specTblBdSet d p)
  | 0x0501 => some (specClsRuleSet d p record)
  | _ => none

/- Running an action (R524 to R529). -/

/-- Lateness in ns of an action that runs at domain time `t`, saturating (R526, R531). -/
def latenessOf (t : Int) (a : Action) : Nat := min (two32 - 1) ((t - (a.t : Int) * 65536) / 65536).toNat

/-- The embedded change takes effect: on the named dies now, and on those whose Keeper is restarting once it runs
again (R524, R529). Answers whether a named die is restarting. -/
def commitAction (d : Dev) (a : Action) : Bool × Dev :=
  let named := embedDies d a.opcode a.params
  let away := named.filter fun n => (dieOf d n).keeper == .restarting
  let d := applyEmbed (named.filter fun n => !away.contains n) a.opcode a.params a.record d
  (!away.isEmpty, onDies d away fun x => { x with late := x.late ++ [⟨a.opcode, a.params, a.record⟩] })

/-- One pending action runs: it commits, is journaled, reports EV_SCHED_DONE and releases a SCHED_ADD that waits for it
(R524, R526, R527, R646). Only the SCHED_ADD of an action whose T was past waits, and it completes with LATE_EXECUTED;
`t` is the domain time at which the action runs. -/
def runAction (d : Dev) (a : Action) (late stepped : Bool) (t : Int) : Dev :=
  let lateness := if late then latenessOf t a else 0
  let d := { d with actions := d.actions.filter fun b => b.id != a.id }
  let d := journal d (.actionRun a.id)
  let r := commitAction d a
  let d := r.2
  let d := if late then bumpDie d 0 cntSchedLate 1 else d
  let st := if r.1 then stRestarting else if late then stLateExecuted else stOk
  let d := raise d 0 evSchedDone (leBytes 4 a.id ++ leBytes 1 st ++ leBytes 1 (atBit 0 stepped) ++ leBytes 2 0 ++ leBytes 4 lateness)
  releasePends d (· == .action a.id) fun p => { p with
    status := stLateExecuted
    result := leBytes 4 a.id ++ leBytes 4 (latenessOf t a) }

/-- Actions in the order in which those of one tick run (R524). -/
def insertAction (a : Action) : List Action → List Action
  | [] => [a]
  | b :: r => if a.t < b.t || (a.t == b.t && a.id ≤ b.id) then a :: b :: r else b :: insertAction a r
def sortActions (l : List Action) : List Action := l.foldr insertAction []

/-- Domain time of an action at action tick `k`. -/
def actionTime (d : Dev) (a : Action) (k : Nat) : Int := domainTime (domainOf d a.domain) (16 * actionTick k : Nat)

/-- The action runs at the most recent action tick: its preparation was complete by then, and its T has come or was
past at acceptance (R524 to R526, R655). Its tick has then begun (R534). -/
def actionDue (d : Dev) (a : Action) : Bool :=
  let k := lastAction d
  decide (a.readyAt ≤ d.grain0.getD d.now + 16 * actionTick k)
    && (a.past || a.missed || decide ((a.t : Int) * 65536 ≤ actionTime d a k))

/-- The pending actions (R534). -/
def pendingActions (d : Dev) : List Action := d.actions.filter fun a => !actionDue d a

/-- Scheduled actions can run: the package is started. -/
def actionsUp (d : Dev) : Bool := d.run == .running && d.grain0.isSome && alive d 0

/-- The package runs its scheduled actions: it is started, and acts as the holder (R647, R655). -/
def actionsRun (d : Dev) : Bool := actionsUp d && isActive d

/-- A SCHED_ADD in progress waits for the action (R526). -/
def awaited (d : Dev) (id : Nat) : Bool := d.pends.any fun p => p.wait == some (.action id)

/-- The action has come due at an action tick before tick `k`: at tick k - 1, when the domain has not changed since, or at
one before its latest change (R524). -/
def dueBefore (d : Dev) (a : Action) (k : Nat) : Bool :=
  a.dueTick.any (· < k) || (k != 0 && decide ((domainOf d a.domain).anchor ≤ actionTick (k - 1))
    && decide ((a.t : Int) * 65536 ≤ actionTime d a (k - 1)))

/-- An action with the tick at which it came due, if it has, noted before its domain changes (R524). -/
def noteDue (d : Dev) (a : Action) : Action :=
  let k := lastAction d
  if dueBefore d a k then { a with dueTick := some (k - 1) }
  else if dueBefore d a (k + 1) then { a with dueTick := some k }
  else a

/-- The due actions of the most recent action tick run; on a package that has fenced itself, those that a SCHED_ADD in
progress waits for, since it completes as it would have done otherwise (R524, R567). -/
def runDue (d : Dev) : Dev :=
  if !actionsUp d then d
  else
    let k := lastAction d
    (sortActions (d.actions.filter fun a => actionDue d a && (isActive d || awaited d a.id))).foldl (fun d a =>
      runAction d a (a.past || a.missed || dueBefore d a k) false (actionTime d a k)) d

/-- SCHED_ACTION_RUN: the actions that are due at the action tick commit (R524). -/
def execSchedActionRun (s : State) : Host.Outcome State Fault Refusal := onDev s runDue

/- Domain changes (R504, R518, R527, R528, R532). -/

/-- The second boundary of PPS_OUT at or before a domain time (R518). -/
def ppsSecond (d : Dev) (t : Int) : Int := (t - d.pps.outOffset * 65536) / 65536000000000

/-- The boundaries that PPS_OUT has passed, after its domain has gone from `old` to `new` (R518; log entry 20). -/
def ppsStep (d : Dev) (k : Nat) (old new : Int) : Dev :=
  if k = d.pps.outDomain && decide (new < old) then
    { d with pps := { d.pps with nextN := d.pps.nextN.map fun n => min n (ppsSecond d new) } }
  else d

/-- A domain change commits at the present grain tick: ANCHOR, OFFSET and RATE are set, and a forward step runs every
pending action that it passes (R504, R527). After a backward step an action waits for its T anew (R527). -/
def commitDomain (d : Dev) (k : Nat) (new rate : Int) : Dev :=
  let old := domainNow d k
  let note := fun a : Action => if a.domain ≠ k then a
    else if new < old then { a with dueTick := none }
    else noteDue d a
  let d := { d with
    actions := d.actions.map note
    domains := lmod d.domains k fun _ => { anchor := tickNow d, offset := new, rate := rate } }
  let d := ppsStep d k old new
  if decide (new ≤ old) || !actionsRun d then d
  else
    let go := d.actions.filter fun a => a.domain == k && decide ((a.t : Int) * 65536 ≤ new)
    (sortActions go).foldl (fun d a => runAction d a false true new) d

/-- RATE within its range (R503). -/
def rateOk (r : Int) : Bool := decide (-65536000000 ≤ r) && decide (r ≤ 65536000000)

/-- A configured port belongs to the boundary clock of domain `k` (R516). -/
def bcUses (d : Dev) (k : Nat) : Bool := (configured d).any fun p => (portOf d p).set.bcEn && (portOf d p).set.bcDomain == k

/-- The Keeper of a port's die sends a message of the boundary clock of domain `k` on the port: its frame asks for cells,
and joins group 0 of the port in TC7 when it has them (R343, R455, R516). An event message carries the clock's PTP
domainNumber. -/
def sendMessage (d : Dev) (k p : Nat) (message : List Byte) (tsReq : Option Nat) : Dev :=
  let q := portOf d p
  let n := dieOfPort p
  if !isPort d p || !q.set.bcEn || q.set.bcDomain != k || (dieOf d n).keeper != .running then d
  else
    let body := message ++ List.replicate (60 - message.length) 0
    let l := withFcs body
    let pd := (parse (dieOf d n).tab l (some l.length) p 0 {} fun _ => 7).1.parsed
    if pd.ptp.any fun o => body.getD (o + 4) 0 != BitVec.ofNat 8 q.set.ptpDomain then d
    else
    let x := addFrame d
      { kind := .keeper, bytes := l, len := some l.length, good := true, endAt := d.now, port := p, die := n, tc := 7,
        dest := .port, egPort := p, stage := .step8, mirDom := k, tsReq := tsReq.isSome, tsId := tsReq.getD 0, asked := cellCount l.length,
        parsed := pd }
    onComb x.2 n fun b => { b with requests := b.requests ++ [(4, x.1, cellCount l.length)] }

/-- The slave port that the boundary clock of a domain has selected, while it belongs to that clock (R516). -/
def slavePort (d : Dev) (k : Nat) : Option Nat := (kget? d.bcSlave k).filter (bcPort d k)

/-- The oldest message for the boundary clock of a domain that a running Keeper holds, with its die (R516). -/
def clockWaiting (d : Dev) (k : Nat) : Option (Nat × Nat) :=
  ((aliveDies d).filter fun n => (dieOf d n).keeper == .running).findSome? fun n =>
    ((dieOf d n).keeperQ.find? (clockFrame d k)).map (n, ·)

/-- The boundary clock of a domain receives the message that waits for it, and the frame's chain returns (R226, R516). -/
def takeMessage (d : Dev) (k : Nat) : Dev := match clockWaiting d k with
  | some (n, i) => slowDone (onDie d n fun x => { x with keeperQ := x.keeperQ.filter (· != i) }) n i
  | none => d

/-- BOUNDARY_CLOCK_MESSAGE: the firmware boundary clock of a domain receives the message that the Keeper holds for it, if any,
selects its slave port, disciplines the domain while it has one, and sends a message when it has one to send. The selection and
the correction are results of IEEE 1588-2019, whose algorithms the spec does not give (R504, R512, R515, R516; log 61). -/
def execBoundaryClockMessage (domain : Nat) (update : ClockUpdate) (send : BcMessage) (s : State) :
    Host.Outcome State Fault Refusal :=
  onDev s fun d =>
    if d.run == .running && d.grain0.isSome && decide (domain < domainCount d.part) && bcUses d domain && rateOk update.rate
        && update.slave.all (bcPort d domain) && (dieOf d 0).keeper == .running then
      let d := takeMessage d domain
      let d := { d with bcSlave := match update.slave with
        | some p => kput d.bcSlave domain p
        | none => kdel d.bcSlave domain }
      let old := domainNow d domain
      let d := if (slavePort d domain).isSome && (update.step != 0 || update.rate != (domainOf d domain).rate) then
          commitDomain d domain (old + update.step * 65536) update.rate
        else d
      if send.message.isEmpty || send.message.length > 9724 then d
      else sendMessage d domain send.port send.message send.tsReq
    else d

/- TIME_ commands (R531 to R533). -/

/-- TIME_GET, sampled at one grain tick. -/
def specTimeGet (d : Dev) (p : BitVec 384) : CmdSpec :=
  let k := pf p 0 1
  { opcode := 0x0801, kind := .r, wide := true, any := true, checks := [ckDomain d 0 k],
    run := fun d =>
      let t := domainNow d k
      (d, okResult (leBytes 8 (grainOf d) ++ leBytes 8 (wholeNs t) ++ leBytes 2 (t % 65536).toNat
        ++ leBytes 6 (unsignedOf 48 (domainOf d k).rate))) }

def execTimeGet (c : Cmd) (s : State) : Host.Outcome State Fault Refusal :=
  onDev s fun d => runCmd (specTimeGet d c.params) c d

/-- TIME_ADJ commits at once (R532 allows 20 µs). -/
def specTimeAdj (d : Dev) (p : BitVec 384) : CmdSpec :=
  let k := pf p 0 1
  let kind := pf p 1 1
  let rates := kind == 0 || kind == 3
  { opcode := 0x0802, kind := .l, keepers := aliveDies d,
    checks := [ckDomain d 0 k, badIf 0 (bcUses d k), badIf 1 (kind > 3), resB p 2 6,
      badIf 16 (rates && (!rateOk (ps p 16 8)))],
    run := fun d =>
      let old := domainNow d k
      let rate := if rates then ps p 16 8 else (domainOf d k).rate
      let new := match kind with
        | 0 => old
        | 2 => (pf p 8 8 : Int) * 65536
        | _ => old + ps p 8 8 * 65536
      let reply := okResult (leBytes 8 (grainOf d) ++ leBytes 8 (wholeNs old))
      (if new = old && !rates then d else commitDomain d k new rate, reply) }

def execTimeAdj (c : Cmd) (s : State) : Host.Outcome State Fault Refusal :=
  onDev s fun d => runCmd (specTimeAdj d c.params) c d

/-- A signed field lies within `lo` to `hi`. -/
def inRange (x lo hi : Int) : Bool := decide (lo ≤ x) && decide (x ≤ hi)

/-- TIME_PORT_SET writes the time settings of a port (R531, R533). -/
def applyTimePortSet (p : BitVec 384) (d : Dev) : Dev :=
  onPort d (pf p 0 2) fun q => { q with set := { q.set with
    tcMode := bitsOf (pf p 2 1) 0 2
    oneStep := bitOf (pf p 2 1) 2
    bcEn := bitOf (pf p 2 1) 3
    bcDomain := pf p 3 1
    rxCorr := ps p 4 4
    txCorr := ps p 8 4
    peerDelay := pf p 12 4
    ptpDomain := pf p 16 1 } }

def specTimePortSet (d : Dev) (p : BitVec 384) : CmdSpec :=
  { opcode := 0x0803, kind := .l, keepers := [0, dieOfPort (pf p 0 2)],
    checks := [ckPort d 0 (pf p 0 2), resv p 2 1 0xF0, badIf 2 (bitsOf (pf p 2 1) 0 2 == 3), ckDomain d 3 (pf p 3 1),
      badIf 4 (!inRange (ps p 4 4) (-50000) 50000), badIf 8 (!inRange (ps p 8 4) (-50000) 50000),
      badIf 12 (pf p 12 4 > 1000000), resB p 17 7],
    run := fun d => (applyTimePortSet p d, {}) }

def execTimePortSet (c : Cmd) (s : State) : Host.Outcome State Fault Refusal :=
  onDev s fun d => runCmd (specTimePortSet d c.params) c d

/-- TIME_PPS_SET. A boundary that has passed when the settings change makes no pulse (R518). -/
def applyTimePpsSet (p : BitVec 384) (d : Dev) : Dev :=
  let d := { d with pps := { d.pps with
    outEn := bitOf (pf p 0 1) 0
    inEn := bitOf (pf p 0 1) 1
    outDomain := pf p 1 1
    outOffset := ps p 4 4
    outWidth := pf p 8 4
    inCorr := ps p 12 4 } }
  { d with pps := { d.pps with nextN := some (ppsSecond d (domainNow d d.pps.outDomain)) } }

def specTimePpsSet (d : Dev) (p : BitVec 384) : CmdSpec :=
  { opcode := 0x0804, kind := .l, keepers := [0],
    checks := [resv p 0 1 0xFC, ckDomain d 1 (pf p 1 1), resB p 2 2,
      badIf 4 (!inRange (ps p 4 4) (-500000000) 499999999),
      badIf 8 (decide (pf p 8 4 < 1000) || decide (pf p 8 4 > 400000000)),
      badIf 12 (!inRange (ps p 12 4) (-1000000) 1000000)],
    run := fun d => (applyTimePpsSet p d, {}) }

def execTimePpsSet (c : Cmd) (s : State) : Host.Outcome State Fault Refusal :=
  onDev s fun d => runCmd (specTimePpsSet d c.params) c d

/-- TIME_PPS_GET: the last accepted edge of PPS_IN. -/
def specTimePpsGet : CmdSpec :=
  { opcode := 0x0805, kind := .r, any := true,
    run := fun d => (d, okResult (leBytes 8 d.pps.grain ++ leBytes 1 d.pps.frac ++ leBytes 3 0 ++ leBytes 4 d.pps.seq)) }

def execTimePpsGet (c : Cmd) (s : State) : Host.Outcome State Fault Refusal := onDev s (runCmd specTimePpsGet c)

/-- An entry of the transmit timestamp queue as TIME_TXTS_READ writes it (R509). -/
def txtsBytes (e : Txts) : List Byte :=
  leBytes 2 e.tsId ++ leBytes 2 e.port ++ leBytes 2 e.ve ++ leBytes 1 (e.domain + atBit 4 e.stomped) ++ leBytes 1 0
    ++ leBytes 4 e.time ++ leBytes 4 0

/-- TIME_TXTS_READ removes up to MAX entries, oldest first (R509, R510). -/
def specTimeTxtsRead (via : Nat) (d : Dev) (p : BitVec 384) : CmdSpec :=
  let n := pf p 0 1
  let k := pf p 2 1
  { opcode := 0x0806, kind := .l, any := true, keepers := [n],
    checks := [ckDie d 0 n, resv p 1 1 0xFE, badIf 2 (k == 0 || decide (k > 64)), resB p 3 5, ckAlign 8 16 (pf p 8 8)],
    run := fun d =>
      let x := dieOf d n
      let got := x.txts.take k
      let d := hostWrite d via .pf0 (pf p 8 8) (got.flatMap txtsBytes)
      (onDie d n fun x => { x with
        txts := x.txts.drop k
        txOver := x.txOver && !bitOf (pf p 1 1) 0 }, okResult (leBytes 1 got.length ++ leBytes 1 (atBit 0 x.txOver))) }

def execTimeTxtsRead (c : Cmd) (s : State) : Host.Outcome State Fault Refusal :=
  onDev s fun d => runCmd (specTimeTxtsRead c.die d c.params) c d

/- SCHED_ commands (R523 to R526, R531, R534). -/

def embedOp (e : BitVec 512) : Nat := bitsOf e.toNat 0 16
def embedParams (e : BitVec 512) : BitVec 384 := BitVec.ofNat 384 (e.toNat >>> 64)

/-- The first ACTION_ID at or after `id` that no action bears (R534); there are fewer actions than `fuel`. -/
def freeId (d : Dev) (id : Nat) : Nat → Nat
  | 0 => id
  | fuel + 1 => if d.actions.any fun a => a.id == id then freeId d ((id + 1) % two32) fuel else id

/-- T is past: at or before D of the most recent action tick (R526). -/
def isPast (d : Dev) (k t : Nat) : Bool :=
  decide ((t : Int) * 65536 ≤ domainTime (domainOf d k) (16 * actionTick (lastAction d) : Nat))

/-- A stored action. Its preparation takes a time that the spec bounds by 1 ms and leaves open (R525; log entry 18). -/
def storeAction (d : Dev) (k t : Nat) (past : Bool) (e : BitVec 512) (record : List Byte) : Nat × Dev :=
  let id := freeId d d.nextAction (d.actions.length + 1)
  let u := takeUnstated d
  let d := u.2
  let a : Action := { id := id, domain := k, t := t, opcode := embedOp e, params := embedParams e, record := record,
                      past := past, readyAt := d.now + u.1 % (ms + 1) }
  (id, { d with actions := d.actions ++ [a], nextAction := (id + 1) % two32 })

/-- The checks of the embedded command, judged as though it were issued now (R523): DETAIL is 0x8000 plus the offset
within the embedded block (R550), which `refusal` reaches by adding the 16 bytes before the parameters. -/
def embedChecks (d : Dev) (e : BitVec 512) (record : List Byte) : List Chk :=
  match embedSpec d (embedOp e) (embedParams e) record with
  | none => [badIf (0x8000 - 16) true]
  | some sp => badIf (0x8002 - 16) (bitsOf e.toNat 16 48 != 0) :: shiftChk (0x8008 - 16) sp.checks

/-- SCHED_ADD. The embedded command is checked once the entry's own fields are right. -/
def specSchedAdd (d : Dev) (p : BitVec 384) (e : BitVec 512) (record : List Byte) : CmdSpec :=
  let k := pf p 0 1
  let t := pf p 8 8
  let lateFlag := bitOf (pf p 1 1) 0
  let own := [ckDomain d 0 k, resv p 1 1 0xFE, resB p 2 6,
    badIf 8 (decide (domainNow d k + 65536000000000000000 < (t : Int) * 65536)), ckAlign 16 64 (pf p 16 8)]
  let sub := embedSpec d (embedOp e) (embedParams e) record
  let past := isPast d k t
  { opcode := 0x0810, kind := .w, record := leBytes 64 e.toNat ++ record,
    keepers := 0 :: (sub.map (·.keepers)).getD [],
    checks := if (judgeFields own).isSome then own else own ++ embedChecks d e record,
    late := (sub.bind (·.late)).orElse fun _ => if (pendingActions d).length ≥ 4096 then some stNoRoom
      else if past && lateFlag then some stPastTime else none,
    run := fun d =>
      let late := past && isActive d
      let r := storeAction d k t late e record
      let result := leBytes 4 r.1 ++ leBytes 4 0
      (r.2, if late then { status := stLateExecuted, result := result, wait := some (.action r.1) } else okResult result) }

def execSchedAdd (c : Cmd) (embed : BitVec 512) (record : List Byte) (s : State) : Host.Outcome State Fault Refusal :=
  onDev s fun d => runCmd (specSchedAdd d c.params embed record) c d

/-- A removed action; a SCHED_ADD that waits for it completes with OK (log entry 21). -/
def dropAction (d : Dev) (id : Nat) : Dev :=
  releasePends { d with actions := d.actions.filter fun a => a.id != id } (· == .action id) fun p => { p with status := stOk }

/-- SCHED_DEL removes a pending action. -/
def specSchedDel (d : Dev) (p : BitVec 384) : CmdSpec :=
  let id := pf p 0 4
  { opcode := 0x0811, kind := .w, keepers := [0],
    checks := [badIf 0 (!(pendingActions d).any fun a => a.id == id)], run := fun d => (dropAction d id, {}) }

def execSchedDel (c : Cmd) (s : State) : Host.Outcome State Fault Refusal :=
  onDev s fun d => runCmd (specSchedDel d c.params) c d

/-- SCHED_GET. -/
def specSchedGet (p : BitVec 384) : CmdSpec :=
  { opcode := 0x0812, kind := .r, any := true,
    run := fun d =>
      let l := pendingActions d
      let a := l.find? fun a => a.id == pf p 0 4
      let f := fun (g : Action → Nat) => (a.map g).getD 0
      (d, okResult (leBytes 1 (f fun _ => 1) ++ leBytes 1 (f (·.domain)) ++ leBytes 2 (f (·.opcode)) ++ leBytes 4 l.length
        ++ leBytes 8 (f (·.t)))) }

def execSchedGet (c : Cmd) (s : State) : Host.Outcome State Fault Refusal :=
  onDev s (runCmd (specSchedGet c.params) c)

/- PPS pins (R517, R518, R714 to R716). -/

/-- The AON controller samples the inputs of the package (R714). -/
def pinsUp (d : Dev) : Bool := d.run != .reset && d.run != .packageStop

/-- An accepted assertion counts: the input was deasserted, and has been for 1 ms since it was last asserted (R715). -/
def pinReady (d : Dev) (p : Pin) : Bool := !p.level && mayRaise d p.lowAt ms

/-- A deassertion is accepted. -/
def pinLow (d : Dev) (p : Pin) : Pin := if p.level then { level := false, lowAt := some d.now } else p

/-- PPS_IN_EDGE: a raw rising edge at `stamp` sixteenths of a tick, which the filter confirms or not (R517, R716). -/
def execPpsInEdge (stamp : Nat) (confirmed : Bool) (s : State) : Host.Outcome State Fault Refusal :=
  onDev s fun d =>
    if !pinsUp d then d
    else
      let ok := confirmed && d.pps.inEn && pinReady d d.ppsIn && d.pps.lastIn.all fun t => decide (t + 500 * ms ≤ stamp)
      let d := if confirmed then { d with ppsIn := { d.ppsIn with level := true } } else d
      if !ok then bumpDie d 0 cntPpsInReject 1
      else
        let at16 : Int := ((stamp : Int) * 80 - d.pps.inCorr) / 80
        let g := unsignedOf 64 (at16 / 16)
        let f := (at16 % 16).toNat
        let d := { d with pps := { d.pps with
          grain := g
          frac := f
          seq := (d.pps.seq + 1) % two32
          lastIn := some stamp } }
        raise d 0 evPpsIn (leBytes 8 g ++ leBytes 1 f)

/-- PPS_IN_FALL. -/
def execPpsInFall (s : State) : Host.Outcome State Fault Refusal :=
  onDev s fun d => if pinsUp d then { d with ppsIn := pinLow d d.ppsIn } else d

/-- PPS_OUT_RISE: the domain has passed one or more boundaries since the last one judged; the last of them makes a
pulse unless one rose within 500 ms (R518). -/
def execPpsOutRise (s : State) : Host.Outcome State Fault Refusal :=
  onDev s fun d =>
    let n := ppsSecond d (domainNow d d.pps.outDomain)
    if !pinsUp d || !d.pps.outEn || d.pps.nextN.any fun m => decide (n ≤ m) then d
    else
      let d := { d with pps := { d.pps with nextN := some n } }
      if !mayRaise d d.pps.outRose (500 * ms) then d
      else emit { d with pps := { d.pps with out := true, outRose := some d.now } } (.pin "PPS_OUT" true)

/-- PPS_OUT_FALL: OUT_WIDTH ns after the rise (R518). -/
def execPpsOutFall (s : State) : Host.Outcome State Fault Refusal :=
  onDev s fun d =>
    if d.pps.out && d.pps.outRose.any fun t => decide (2 * t + 25 * d.pps.outWidth ≤ 2 * d.now) then
      emit { d with pps := { d.pps with out := false } } (.pin "PPS_OUT" false)
    else d

end Sys2Proof.Machine
end

