-- ==== Sys2Proof/Machine/Boot.lean ====
section
/-! DEFINITION. The flash and what is judged valid in it, start-up, package reset, PERST_N and the other package pins
(R16, R579, R665 to R684, R698, R701 to R706, R714 to R721). -/

namespace Sys2Proof.Machine

/- The flash (R665 to R672). -/

/-- The little-endian field of `n` bytes at offset `i` of a copy. -/
def fieldAt (l : List Byte) (i n : Nat) : Nat := ofLe (slice l i n)

def signedAt (l : List Byte) (i n : Nat) : Int := signedOf (8 * n) (fieldAt l i n)

/-- Configuration copy A or B, firmware copy A or B. -/
def cfgCopy (a : Aon) (k : Nat) : List Byte := a.flash.getD k []
def fwCopy (a : Aon) (k : Nat) : List Byte := a.flash.getD (2 + k) []

def seqOfCopy (l : List Byte) : Nat := fieldAt l 8 4
def seqInRange (l : List Byte) : Bool := seqOfCopy l != 0 && seqOfCopy l != 0xFFFFFFFF

/-- The 48 bytes of a digest (R666). -/
def digestBytes (h : BitVec 384) : List Byte := beBytes 48 h.toNat

/-- Length of a configuration block (R667). -/
def cfgLen : Nat := 13956

/-- A lane record within its bounds (R667, R683). -/
def laneRecordOk (l : List Byte) (o : Nat) : Bool :=
  inRange (signedAt l o 1) (-8) 8 && inRange (signedAt l (o + 1) 1) (-8) 8 && inRange (signedAt l (o + 2) 1) (-8) 8
    && fieldAt l (o + 3) 1 == 0 && inRange (signedAt l (o + 4) 4) (-50000) 50000
    && inRange (signedAt l (o + 8) 4) (-50000) 50000 && fieldAt l (o + 12) 4 == 0

/-- A rail record within its bounds (R667, R683). -/
def railRecordOk (l : List Byte) (o : Nat) : Bool :=
  inRange (signedAt l o 4) (-50000) 50000 && inRange (signedAt l (o + 4) 2) (-2000) 2000 && inRange (signedAt l (o + 6) 2) (-20) 20

/-- Every field of a configuration block has its value or range; records of absent dies are 0 (R667). -/
def cfgFieldsOk (part : Part) (l : List Byte) : Bool :=
  let dies := dieCount part
  slice l 0 4 == [0x4B, 0x4D, 0x43, 0x46] && fieldAt l 4 2 == 1 && fieldAt l 6 2 == partCode part && seqInRange l
    && fieldAt l 12 4 == cfgLen && decide (fieldAt l 16 4 < 4) && fieldAt l 20 44 == 0
    && ((List.range 768).all fun k => if k / 96 < dies then laneRecordOk l (64 + 16 * k) else fieldAt l (64 + 16 * k) 16 == 0)
    && ((List.range 512).all fun k => if k / 64 < dies then inRange (signedAt l (12352 + 2 * k) 2) (-64) 64
      else fieldAt l (12352 + 2 * k) 2 == 0)
    && ((List.range 48).all fun k => if k / 6 < dies then railRecordOk l (13376 + 8 * k) else fieldAt l (13376 + 8 * k) 8 == 0)

/-- The operator's approval, once OP_KEY_HASH is programmed (R668). -/
def opApproves (a : Aon) (l : List Byte) : Bool := a.opKey.all fun h =>
  Config.sha384 (slice l 13760 96) == h && Config.ecdsaVerifies (slice l 13760 96) (l.take 13856) (slice l 13856 96)

/-- A configuration copy is valid (R668). -/
def cfgOk (a : Aon) (part : Part) (l : List Byte) : Bool :=
  decide (l.length ≥ cfgLen) && cfgFieldsOk part l && fieldAt l 13952 4 == crc32c (l.take 13952) && opApproves a l

/-- Length of the firmware image that a header states (R669). -/
def fwLen (l : List Byte) : Nat := 228 + fieldAt l 20 4

/-- The bit of PART_MASK that names the part (R669). -/
def partBit : Part → Nat
  | .km8200 => 0
  | .km8400 => 1
  | .km8800 => 2

/-- The header of a firmware image has the values and ranges of R669. -/
def fwFieldsOk (part : Part) (l : List Byte) : Bool :=
  slice l 0 4 == [0x4B, 0x4D, 0x46, 0x57] && fieldAt l 4 2 == 1 && decide (fieldAt l 6 2 < 8) && bitOf (fieldAt l 6 2) (partBit part)
    && seqInRange l && decide (fieldAt l 16 4 ≤ 64) && fieldAt l 20 4 % 4 == 0 && decide (fwLen l ≤ 524288) && fieldAt l 24 8 == 0

/-- The bytes of a fuse held for a die (R685); unprogrammed fuses read as 0. -/
def fuseBytes (a : Aon) (id die size : Nat) : List Byte := padTo size (kget a.fuses (id, die) [])

/-- A firmware copy is valid (R670). -/
def fwOk (a : Aon) (part : Part) (l : List Byte) : Bool :=
  let n := fieldAt l 20 4
  fwFieldsOk part l && decide (l.length ≥ fwLen l) && fieldAt l (224 + n) 4 == crc32c (l.take (224 + n))
    && digestBytes (Config.sha384 (slice l 32 96)) == fuseBytes a 4 0 48
    && Config.ecdsaVerifies (slice l 32 96) (l.take (128 + n)) (slice l (128 + n) 96)
    && decide (fieldAt l 16 4 ≥ a.rollback)

/-- The copies of a kind as judged now, bit 0 for A. -/
def judgeCfg (a : Aon) (part : Part) : Nat := maskOf 2 fun k => cfgOk a part (cfgCopy a k)
def judgeFw (a : Aon) (part : Part) : Nat := maskOf 2 fun k => fwOk a part (fwCopy a k)

/-- The valid copy with the higher SEQ, A when they are equal (R671). -/
def pickCopy (valid seqA seqB : Nat) : Option Nat :=
  if valid = 3 then some (if seqB > seqA then 1 else 0) else if valid = 1 then some 0 else if valid = 2 then some 1 else none

/-- The firmware copy that start-up selects; copies in `badFw` count as invalid (R671, R673). -/
def pickFw (a : Aon) : Option Nat :=
  pickCopy (maskOf 2 fun k => bitOf a.fwValid k && !a.badFw.contains k) (seqOfCopy (fwCopy a 0)) (seqOfCopy (fwCopy a 1))

/- Start-up (R674 to R684). -/

/-- A die as start-up finds it: its PCIe endpoint, its direct registers and rings, and its fuses keep their state (R579,
R682); the rest is at its reset value. -/
def bootDie (x : Die) : Die :=
  { perst := x.perst, perstAt := x.perstAt, split := x.split, link1 := x.link1, pcieUp := x.pcieUp, ready := x.ready, rings := x.rings,
    evt := x.evt, cause := x.cause, intEn := x.intEn, directVec := x.directVec, vecs := x.vecs, indAddr := x.indAddr,
    indErr := x.indErr, indErrAt := x.indErrAt, causeNew := x.causeNew, causeAt := x.causeAt, autoInc := x.autoInc, indQ := x.indQ, mbHalt := x.mbHalt, coefs := x.coefs }

/-- The configuration block of a start-up, all 0 for the default block (R672). -/
def runningCfg (a : Aon) : List Byte := if a.cfgRun = 2 then [] else a.cfgImage

/-- User corrections of the lanes, the sensors and the rail meters (R683, R684). -/
def applyCorrections (d : Dev) (l : List Byte) : Dev :=
  let lanes := (List.range (96 * dieCount d.part)).filter fun k => fieldAt l (64 + 16 * k) 12 != 0
  let d := lanes.foldl (fun d k =>
    let o := 64 + 16 * k
    let id := 128 * (k / 96) + k % 96
    let d := onLane d id fun x => { x with
      cfgPre := signedAt l o 1
      cfgMain := signedAt l (o + 1) 1
      cfgPost := signedAt l (o + 2) 1 }
    if fieldAt l (o + 4) 8 = 0 then d
    else onPort d id fun q => { q with set := { q.set with rxCorr := signedAt l (o + 4) 4, txCorr := signedAt l (o + 8) 4 } }) d
  { d with
    sensorTrim := ((List.range 512).filter fun k => fieldAt l (12352 + 2 * k) 2 != 0).map fun k =>
      ((k / 64, k % 64), signedAt l (12352 + 2 * k) 2)
    railCal := ((List.range 48).filter fun k => fieldAt l (13376 + 8 * k) 8 != 0).map fun k =>
      let o := 13376 + 8 * k
      ((k / 6, k % 6), (signedAt l o 4, signedAt l (o + 4) 2, signedAt l (o + 6) 2)) }

/-- Channels between dies that both run are up (R389, R674). -/
def startChannels (d : Dev) : Dev :=
  (aliveDies d).foldl (fun d n => onDie d n fun x => { x with
    hbAt := d.now
    chans := (List.range 7).map fun j => match farDie d.part n j with
      | some m => if alive d m then { st := .up, lastOk := d.now } else {}
      | none => {} }) d

/-- The peer link of a paired package is a port of its own (R155, R631). -/
def startPeer (d : Dev) : Dev :=
  if !d.ha.paired then d
  else
    let d := onPort d 0x5C fun q => { q with conf := { mode := 1, width := 4, rate := 4 } }
    startBringup (fitSlice d 0 3 false) 0x5C

/-- The factory calibration of die `n`, read from its fuses (R674, R685). -/
def readCal (a : Aon) (n : Nat) (x : Die) : Die :=
  { x with
    calLane := kget a.fuses (8, n) []
    calTs := kget a.fuses (9, n) []
    calSensor := kget a.fuses (10, n) []
    calRail := kget a.fuses (11, n) [] }

/-- Start-up from step 3 on with firmware copy `k`, the dies `failed` being lost (R673, R674, R676, R677, R682). -/
def startDevice (s : State) (k : Nat) (failed : List Nat) : State :=
  let l := fwCopy s.aon k
  let l := l.take (fwLen l)
  let a := { s.aon with fwRun := k, fwVersion := fieldAt l 12 4, secVersion := fieldAt l 16 4, fwImage := l }
  let d := s.dev
  let lost := (List.range (dieCount d.part)).filter fun n => n != 0 && failed.contains n
  let cfg := runningCfg a
  let flags := fieldAt cfg 16 4
  let d : Dev :=
    { part := d.part, now := d.now, grain0 := some d.now, run := .running, fault := d.fault, queen := d.queen, ppsIn := d.ppsIn,
      pwrOk := d.pwrOk, alert := d.alert, thermal := d.thermal, coolAt := d.coolAt, fwVersion := a.fwVersion, serial0 := ofLe (fuseBytes a 1 0 8), readyOnce := d.readyOnce,
      lostAtBoot := lost, nextId := d.nextId, unstated := d.unstated, pends := d.pends, mem := d.mem, out := d.out,
      dies := d.dies.mapIdx fun n x =>
        let x := readCal s.aon n { bootDie x with walkAt := List.replicate 6 d.now }
        if n ≥ dieCount d.part then x else if lost.contains n then { x with lost := true } else { x with keeper := .running },
      ha := { paired := bitOf flags 0, prefBit := bitOf flags 1, preferred := bitOf flags 1, sync := if bitOf flags 0 then .stale else .none,
              cause := if bitOf flags 0 then 1 else 0, readyAt := d.now, seenAt := d.now, annAt := d.now } }
  let d := applyCorrections d cfg
  let d := (aliveDies d).foldl noteFree (startChannels d)
  let d := { d with pkg := { d.pkg with override := a.override } }
  let d := { d with pkg := { d.pkg with capEff := capEffOf d } }
  let d := (aliveDies d).foldl (fun d n => if bitOf a.park.toNat n then parkDie d n else d) (startPeer d)
  { s with aon := a, dev := d }

/-- Recovery boot: d0 runs its mask-ROM program, the other dies stay held (R680). -/
def startRecovery (s : State) : State :=
  { s with
    aon := { s.aon with fwRun := 2, fwVersion := 0, secVersion := 0, fwImage := [] }
    dev := { s.dev with
      run := .recovery
      grain0 := none
      fwVersion := 0
      dies := s.dev.dies.mapIdx fun n x =>
        let x := bootDie x
        if n = 0 then { x with keeper := .recovery } else { x with ready := false, pcieUp := false } } }

/-- Start-up from step 3 on, which halts when d0 fails a step (R674, R678). -/
def bootFrom (s : State) (k : Nat) (failedDies : List Nat) (d0Fails : Bool) : State :=
  if d0Fails then
    let l := (fwCopy s.aon k).take (fwLen (fwCopy s.aon k))
    { s with
      aon := { s.aon with fwRun := k, fwVersion := fieldAt l 12 4, secVersion := fieldAt l 16 4, fwImage := l }
      dev := setAlert { s.dev with run := .haltedStart } true }
  else startDevice s k failedDies

/-- PWR_OK_RISE: both copies of each kind are judged and start-up runs to its end, at one instant of the model. A rise
within 1 ms of the reset takes effect at the end of that 1 ms. `failedDies` fail steps 4 to 7, and `d0Fails` says that
d0 does (R671, R672, R674, R677, R678, R680, R703). -/
def execPwrOkRise (failedDies : List Nat) (d0Fails : Bool) (s : State) : Host.Outcome State Fault Refusal :=
  if s.dev.run != .reset then .next s
  else
    let part := s.dev.part
    let a := { s.aon with cfgValid := judgeCfg s.aon part, fwValid := judgeFw s.aon part, badFw := [] }
    let cfg := pickCopy a.cfgValid (seqOfCopy (cfgCopy a 0)) (seqOfCopy (cfgCopy a 1))
    let a := match cfg with
      | some k => { a with cfgRun := k, cfgImage := (cfgCopy a k).take cfgLen }
      | none => { a with cfgRun := 2, cfgImage := [] }
    let d := { s.dev with now := max s.dev.now (a.resetAt + ms), pwrOk := true }
    let d := onDies d (List.range (dieCount part)) fun x => { x with pcieUp := !x.perst }
    let s := { s with aon := a, dev := d }
    .next (match pickFw a with
      | none => startRecovery s
      | some k => bootFrom s k failedDies d0Fails)

/-- DIE_READY: READY rises once start-up is over and 100 ms have passed since the release of PERST_N (R675, R581). -/
def execDieReady (die : Nat) (s : State) : Host.Outcome State Fault Refusal :=
  onDev s fun d =>
    let x := dieOf d die
    if !alive d die || x.perst || x.ready || !(d.run == .running || (d.run == .recovery && die == 0)) || x.keeper == .booting
        || !expired d x.perstAt (100 * ms) then d
    else
      let d := setCause (onDie d die fun x => { x with ready := true }) die intReady
      if die = 0 && !d.readyOnce then { d with readyOnce := true, ha := { d.ha with readyAt := d.now } } else d

/- Package reset (R579, R702, R703). -/

/-- Pins that the reset releases are driven low, and ALERT_N high. -/
def releasePins (d : Dev) : Dev :=
  let d := if d.ha.queenOut then emit d (.pin "QUEEN_OUT" false) else d
  let d := if d.pps.out then emit d (.pin "PPS_OUT" false) else d
  if d.alert then emit d (.pin "ALERT_N" true) else d

/-- The package is reset: everything takes its reset value but the fuses, the flash, host memory and the levels that the
board drives (R579, R703). -/
def packageReset (s : State) : State :=
  let d := releasePins s.dev
  { pending := s.pending
    aon := { fuses := s.aon.fuses, opKey := s.aon.opKey, opBank0Bad := s.aon.opBank0Bad, rollback := s.aon.rollback,
             dbgDisable := s.aon.dbgDisable, flash := s.aon.flash, resetAt := s.dev.now }
    dev := { part := d.part, now := d.now, fault := d.fault, queen := d.queen, ppsIn := d.ppsIn, nextId := d.nextId,
             unstated := d.unstated, mem := d.mem, out := d.out,
             dies := d.dies.map fun x => { perst := x.perst, perstAt := x.perstAt, split := x.split, link1 := x.link1, coefs := x.coefs } } }

/-- PWR_OK_FALL (R579, R703). -/
def execPwrOkFall (s : State) : Host.Outcome State Fault Refusal := .next (if s.dev.pwrOk then packageReset s else s)

/-- RAIL_UNDERVOLTAGE: as though PWR_OK had fallen (R698). -/
def execRailUndervoltage (s : State) : Host.Outcome State Fault Refusal := .next (if s.dev.pwrOk then packageReset s else s)

/- PCIe (R576, R577, R675, R679, R706, R717). -/

/-- PCIE_REFCLK_LOSS takes the die's PCIe link down (R706). -/
def execPcieRefclkLoss (die : Nat) (s : State) : Host.Outcome State Fault Refusal :=
  onDev s fun d => if hasDie d die then onDie d die fun x => { x with pcieUp := false } else d

/-- PERST_N_ASSERT: the die's endpoint and its non-AON direct registers are reset (R16, R579, R679). -/
def execPerstNAssert (die : Nat) (s : State) : Host.Outcome State Fault Refusal :=
  onDev s fun d =>
    if !hasDie d die then d
    else onDie (disableRings d die) die fun x => { x with
      perst := true
      pcieUp := false
      ready := false
      mbHalt := false
      rings := x.rings.map fun r => { epoch := r.epoch }
      evt := {}
      cause := 0
      intEn := 0
      directVec := 31
      vecs := []
      indAddr := 0
      indErr := false
      autoInc := false
      indQ := []
      pRings := x.pRings.map fun e => (e.1, {}) }

/-- PERST_N_RELEASE: PCIE_SPLIT is sampled and the endpoint trains its link, once the package has power; the registers
of the die have their reset values, whatever was caused while PERST_N was asserted (R16, R577, R579, R675, R717). -/
def execPerstNRelease (die : Nat) (links : PcieLinks) (s : State) : Host.Outcome State Fault Refusal :=
  onDev s fun d =>
    if !hasDie d die || !(dieOf d die).perst then d
    else onDie d die fun x => { x with
      perst := false
      perstAt := d.now
      mbHalt := false
      cause := 0
      split := links.split
      link1 := links.link1
      pcieUp := d.run != .reset && (die == 0 || d.run != .recovery) }

/- Pins and the debug mailbox (R689, R714, R715, R720, R722). -/

/-- FAULT_IN_ASSERT: an assertion that counts puts the package in thermal stop (R715, R720). -/
def execFaultInAssert (s : State) : Host.Outcome State Fault Refusal :=
  onDev s fun d =>
    if d.run == .reset then d
    else
      let counts := pinReady d d.fault
      let d := { d with fault := { d.fault with level := true } }
      noteCool (if counts then enterThermal d else d)

/-- FAULT_IN_DEASSERT (R715, R722). -/
def execFaultInDeassert (s : State) : Host.Outcome State Fault Refusal :=
  onDev s fun d => if d.run == .reset then d else noteCool { d with fault := pinLow d d.fault }

/-- DEBUG_MAILBOX_ACCESS: a use of the debug mailbox is recorded while DBG_DISABLE is 0 (R689). What a Haldiz service tool
does to a Keeper through it is not stated. -/
def execDebugMailboxAccess (s : State) : Host.Outcome State Fault Refusal :=
  .next (if s.dev.run == .reset || s.aon.dbgDisable then s else { s with aon := { s.aon with debugUsed := true } })

end Sys2Proof.Machine
end

