-- ==== Sys2Proof/Machine/Guard.lean ====
section
/-! DEFINITION. The service lock and the guarded registers of d0 (R594 to R597), and what they do (R480, R489, R645). -/

namespace Sys2Proof.Machine

/-- The reserved bits of a guarded register are 0 in a value; targets 1 to 4 name registers (R580, R595, R596). -/
def targetTakes (target : Nat) (v : Nat) : Bool := match target with
  | 1 => decide (v < 2)
  | 2 => decide (v < 256) && v % 2 == 0
  | 3 => decide (v < 4)
  | 4 => decide (v < 2)
  | _ => false

/-- The value that a GUARD_B write of `w` gives its target now, with the target, when the conditions of R596 hold. -/
def guardWrites (s : State) (w : Word) : Option (Nat × Nat) :=
  if !regsUp s.dev 0 || s.aon.lock || guardOver s then none
  else match s.aon.armed with
    | some (v, target, _) => if w = ~~~v ∧ targetTakes target v.toNat then some (target, v.toNat) else none
    | none => none

/-- The sequence ends with its target written (R596). -/
def guardDone (s : State) : Aon := { s.aon with armed := none, doneF := true, doneAt := some (aonCycle s.dev.now) }

/-- A write that LOCK.SVC forbids is ignored and sets LOCKED (R597). -/
def guardLocked (s : State) : Aon := { s.aon with lockedF := true, lockedAt := some (aonCycle s.dev.now) }

/-- LOCK_WRITE: a write of 1 to LOCK on any die sets LOCK.SVC, disarms and clears FUSE_PROG_EN (R594, R595, R597). -/
def execLockWrite (die : Nat) (value : Word) (s : State) : Host.Outcome State Fault Refusal :=
  if !regsUp s.dev die || !bitOf value.toNat 0 then .next s
  else
    let a := lapse s
    let a := if a.armed.isSome then failGuard a (aonCycle s.dev.now) else a
    .next { s with aon := { a with lock := true, fuseEn := none } }

/-- GUARD_A_WRITE arms a sequence; an armed one is replaced and counts as failed. Under LOCK.SVC it is ignored (R596,
R597). -/
def execGuardAWrite (value : Word) (s : State) : Host.Outcome State Fault Refusal :=
  if !regsUp s.dev 0 then .next s
  else if s.aon.lock then .next { s with aon := guardLocked s }
  else
    let a := lapse s
    let a := if a.armed.isSome then failGuard a (aonCycle s.dev.now) else a
    .next { s with aon := { a with armed := some (value, a.sel, s.dev.now) } }

/-- GUARD_B_FAILED_WRITE: a GUARD_B write that breaks a condition or meets nothing armed; under LOCK.SVC it is ignored
(R596, R597). -/
def execGuardBFailedWrite (value : Word) (s : State) : Host.Outcome State Fault Refusal :=
  if !regsUp s.dev 0 then .next s
  else if s.aon.lock then .next { s with aon := guardLocked s }
  else if (guardWrites s value).isSome then .next s
  else .next { s with aon := failGuard (lapse s) (aonCycle s.dev.now) }

/-- GUARD_WINDOW_EXPIRY (R596). -/
def execGuardWindowExpiry (s : State) : Host.Outcome State Fault Refusal := .next { s with aon := lapse s }

/-- GUARDED_DIRECT_WRITE: a direct write to a guarded register is ignored and counted (R597). -/
def execGuardedDirectWrite (offset : Nat) (_value : Word) (s : State) : Host.Outcome State Fault Refusal :=
  if regsUp s.dev 0 && [0x320, 0x324, 0x328, 0x32C].contains offset then .next { s with aon := addFail s.aon } else .next s

/-- FUSE_PROG_EN_TIMEOUT: EN clears 10 s after it was set (R595). -/
def execFuseProgEnTimeout (s : State) : Host.Outcome State Fault Refusal :=
  if s.aon.fuseEn.any fun t => expired s.dev t (10 * sec) then .next { s with aon := { s.aon with fuseEn := none } } else .next s

/- The four guarded controls. -/

/-- The power-cap override holds k at 0, so CAP_EFF equals CAP (R480). -/
def setOverride (d : Dev) (on : Bool) : Dev :=
  { d with pkg := { d.pkg with
    override := on
    k := if on then 0 else d.pkg.k } }

/-- POWER_CAP_OVERRIDE: PWR_OVERRIDE takes VALUE (R480, R596). -/
def execPowerCapOverride (value : Word) (s : State) : Host.Outcome State Fault Refusal :=
  match guardWrites s value with
  | some (1, v) => .next { s with
      aon := { guardDone s with override := bitOf v 0 }
      dev := setOverride s.dev (bitOf v 0) }
  | _ => .next s

/-- DIE_PARK as written: bits of dies that the part lacks are not written (R580, R595). -/
def parkValue (d : Dev) (v : Nat) : Nat := maskOf (dieCount d.part) fun n => n != 0 && bitOf v n

/-- A value parks a die that is not parked yet. -/
def parksMore (a : Aon) (d : Dev) (v : Nat) : Bool :=
  (List.range 8).any fun n => bitOf (parkValue d v) n && !bitOf a.park.toNat n

/-- DIE_PARK takes a value: dies whose bit rises are parked, those whose bit falls are unparked (R489). -/
def writePark (s : State) (v : Nat) : State :=
  let new := parkValue s.dev v
  let d := (List.range 8).foldl (fun d n =>
    if s.dev.run != .running || bitOf new n == bitOf s.aon.park.toNat n then d
    else if bitOf new n then parkDie d n else unparkDie d n) s.dev
  { s with aon := { guardDone s with park := BitVec.ofNat 8 new }, dev := d }

/-- DIE_PARK: the sequence on DIE_PARK that parks a die (R489, R596). -/
def execDiePark (value : Word) (s : State) : Host.Outcome State Fault Refusal :=
  match guardWrites s value with
  | some (2, v) => .next (if parksMore s.aon s.dev v then writePark s v else s)
  | _ => .next s

/-- DIE_UNPARK: the sequence on DIE_PARK that parks no further die (R489, R596). -/
def execDieUnpark (value : Word) (s : State) : Host.Outcome State Fault Refusal :=
  match guardWrites s value with
  | some (2, v) => .next (if parksMore s.aon s.dev v then s else writePark s v)
  | _ => .next s

/-- The package can act on LEASE_FORCE: it is paired and started. -/
def forceRuns (d : Dev) : Bool := d.ha.paired && d.run == .running && alive d 0

/-- LEASE_FORCE_ACTIVE: a value of 1 takes the lease at once, and FORCE returns to 0. In thermal stop no lease is renewed
(R641, R645, R721). -/
def execLeaseForceActive (value : Word) (s : State) : Host.Outcome State Fault Refusal :=
  match guardWrites s value with
  | some (3, 1) => .next { s with
      aon := { guardDone s with force := 0 }
      dev := if forceRuns s.dev && !s.dev.thermal then takeLease s.dev 6 (nextEpoch s.dev.ha.seen) else s.dev }
  | _ => .next s

/-- LEASE_FORCE_STANDBY: a value of 2 fences the package at once; 0 and 3 ask for nothing; FORCE returns to 0 (R639,
R645). -/
def execLeaseForceStandby (value : Word) (s : State) : Host.Outcome State Fault Refusal :=
  match guardWrites s value with
  | some (3, v) => .next (if v = 1 then s else { s with
      aon := { guardDone s with force := 0 }
      dev := if v = 2 && forceRuns s.dev then fence s.dev 6 7 false else s.dev })
  | _ => .next s

/-- FUSE_PROG_ENABLE: FUSE_PROG_EN takes VALUE (R595, R596). -/
def execFuseProgEnable (value : Word) (s : State) : Host.Outcome State Fault Refusal :=
  match guardWrites s value with
  | some (4, v) => .next { s with aon := { guardDone s with fuseEn := if bitOf v 0 then some s.dev.now else none } }
  | _ => .next s

end Sys2Proof.Machine
end

