-- ==== Sys2Proof/Machine/Integrity.lean ====
section
/-! DEFINITION. Errors of stored data and what follows from them, the forager, Keeper restarts, DMA channels, retirement
and the MEM_ commands (chapter 15). -/

namespace Sys2Proof.Machine

/- Counting and logging (R603, R604, R626). -/

def logOf (d : Dev) (n m : Nat) : MemLog := kget (dieOf d n).logs m {}

def onLog (d : Dev) (n m : Nat) (f : MemLog → MemLog) : Dev := onDie d n fun x => { x with logs := kput x.logs m (f (kget x.logs m {})) }

/-- The index of the entry with the oldest LAST among those without UE. -/
def oldestCe (l : List LogEntry) : Option Nat :=
  match minOff ((l.filter fun e => !e.ue).map (·.last)) with
  | none => none
  | some t => l.findIdx? fun e => !e.ue && e.last == t

/-- The log of a memory after one more error (R604). -/
def logError (k : MemLog) (new : LogEntry) : MemLog :=
  match k.entries.findIdx? fun e => e.address == new.address with
  | some i => { k with entries := lmod k.entries i fun e => { e with
      count := min (e.count + 1) (two32 - 1)
      last := new.last
      ue := e.ue || new.ue } }
  | none =>
    if k.entries.length < 16 then { k with entries := k.entries ++ [new] }
    else match if new.ue then oldestCe k.entries else none with
      | some i => { k with entries := lmod k.entries i fun _ => new }
      | none => { k with overflow := (k.overflow + 1) % two32 }

/-- An error of a memory is counted, logged and reported (R603, R604): `outcome` is that of an uncorrectable one. -/
def recordError (d : Dev) (n m addr syn : Nat) (ue forager : Bool) (outcome : Nat) : Dev :=
  let g := grainOf d
  let new : LogEntry := { ue := ue, forager := forager, syndrome := syn, address := addr, count := 1, first := g, last := g }
  let d := onLog (bumpDie d n ((if ue then cntMemUe else cntMemCe) + m) 1) n m fun k => logError k new
  let k := logOf d n m
  let head := leBytes 1 m ++ leBytes 1 (atBit 0 forager)
  if ue then
    let c := (k.ueN + 1) % two32
    if mayRaise d k.ueAt (10 * ms) then
      raise (onLog d n m fun k => { k with ueN := 0, ueAt := some d.now }) n evMemUe
        (head ++ leBytes 1 outcome ++ leBytes 1 0 ++ leBytes 4 addr ++ leBytes 4 c)
    else onLog d n m fun k => { k with ueN := c }
  else
    let c := (k.ceN + 1) % two32
    let a := if k.ceN = 0 then addr else k.ceAddr
    if mayRaise d k.ceAt sec then
      raise (onLog d n m fun k => { k with ceN := 0, ceAt := some d.now }) n evMemCe
        (head ++ leBytes 2 0 ++ leBytes 4 a ++ leBytes 4 c)
    else onLog d n m fun k => { k with ceN := c, ceAddr := a }

/- Outcomes (R609 to R615). -/

def markAudit (d : Dev) (n : Nat) : Dev := onComb d n fun b => { b with audit := true }

/-- A chain whose return stops at cell `c`: the cells from there on keep no owner; its pages stay (R338, R610). -/
def cutChain (l : List Loc) (c : Nat) : List Loc :=
  let pre := l.takeWhile (· != .cell c)
  pre ++ (l.drop pre.length).filter fun x => match x with
    | .page _ => true
    | .cell _ => false

/-- A copy whose cells are bad from byte `k` on is dropped on its egress die: it is stomped when it has begun to leave, and its
owner discards it when it reaches it (R353, R405, R610). -/
def ueCopy (d : Dev) (c : Copy) (k : Nat) : Dev :=
  let d := if c.bad.isSome then d else countCopyDrop d c drUeCell 4
  abortCopies (onCopy d c.id fun c => { c with kept := min c.kept k }) [c] drUeCell 4

/-- A multicast or slow-path chain whose cells are bad on a die from byte `k` on (R353, R610). -/
def ueChain (d : Dev) (m : McChain) (k : Nat) : Dev :=
  let f := frameOf d m.fid
  let cs := (copiesOf d m.fid).filter fun c => c.die == m.die
  if m.slow then (if f.kind = .received then dropFrameOn d m.die f.id drUeCell else dropCopyOn d m.die f drUeCell)
  else
    let d := if cs.isEmpty then countDrop d m.die (some f.port) (dropTenant f) drUeCell (sizeOf' f)
      else cs.foldl (fun d c => ueCopy d c k) d
    abortChain d m.die m.fid

/-- An uncorrectable word of cell `c`, in its data or, with `link`, in its link word, when some chain holds the cell
(R610). -/
def ueCell (d : Dev) (n c : Nat) (link : Bool) : Option Dev :=
  let cut := fun l : List Nat => if link then l.takeWhile (· != c) else l
  let aud := fun d : Dev => if link then markAudit d n else d
  match d.frames.find? fun f => f.die == n && f.chain.contains (.cell c) with
  | some f =>
    let d := onFrame d f.id fun f => { f with kept := min f.kept (256 * (f.chain.takeWhile (· != .cell c)).length) }
    let d := if link then onFrame (markAudit d n) f.id fun f => { f with chain := cutChain f.chain c } else d
    some (if f.kind = .received then badFrame d f.id drUeCell 4 else dropCopyFrame d (frameOf d f.id) drUeCell)
  | none => match d.copies.find? fun x => x.die == n && x.cells.contains c with
    | some x =>
      let d := onCopy (aud d) x.id fun x => { x with cells := cut x.cells }
      some (ueCopy d (copyOf d x.id) (256 * (x.cells.takeWhile (· != c)).length))
    | none => match (dieOf d n).mcIn.find? fun m => m.cells.contains c with
      | some m => some (ueChain (onChain (aud d) n m.fid fun m => { m with cells := cut m.cells }) m
          (256 * (m.cells.takeWhile (· != c)).length))
      | none => none

/-- The free list up to cell `c` (R613). -/
def cutFree : List (Nat × Nat) → Nat → List (Nat × Nat)
  | [], _ => []
  | (a, n) :: r, c => if a ≤ c ∧ c < a + n then (if c = a then [] else [(a, c - a)]) else (a, n) :: cutFree r c

/-- The free list ends before cell `c`, and a rebuild and an audit fall due (R340, R613). -/
def breakList (d : Dev) (n c : Nat) : Dev :=
  noteFree (onComb (bumpDie d n cntCombListBad 1) n fun b => { b with free := cutFree b.free c, listBroken := true, audit := true }) n

/-- A page of a die that holds cells of admitted frames, with its VOQ. -/
def livePage (d : Dev) (n p : Nat) : Option VoqKey :=
  (d.voqs.find? fun e => e.1.die == n && e.2.pages.any fun g => g.idx == p && g.st != .writing).map (·.1)

/-- OUTCOME of an uncorrectable word of memory 0, 1 or 2, and what follows (R609, R610, R613). -/
def ueStored (d : Dev) (n m addr : Nat) : Nat × (Dev → Dev) :=
  match m with
  | 0 => match ueCell d n (addr / 32) false with
    | some _ => (0, fun d => (ueCell d n (addr / 32) false).getD d)
    | none => (5, id)
  | 1 => match ueCell d n addr true with
    | some _ => (0, fun d => (ueCell d n addr true).getD d)
    | none =>
      if isHeld (combOf d n) addr then (0, id)
      else if onList (combOf d n) addr then (6, fun d => breakList d n addr) else (5, id)
  | _ => match livePage d n (addr / 512) with
    | some q => (0, fun d => onPage d q (addr / 512) fun g => { g with ue := some (addr % 512) })
    | none => (5, id)

/-- A word read with an error in memory 0, 1 or 2: a correctable one is counted, an uncorrectable one has its outcome as
well (R601, R603, R610). -/
def storedError (d : Dev) (n m addr : Nat) (e : MemErr) (forager : Bool) : Dev :=
  match e with
  | .none => d
  | .ce syn => recordError d n m addr syn.toNat false forager 0
  | .ue syn =>
    let r := ueStored d n m addr
    r.2 (recordError d n m addr syn.toNat true forager r.1)

/-- The element of a list at a place counted round it. -/
def atRound {α : Type} (l : List α) (i : Nat) : Option α := l[i % l.length]?

/-- Queue-state loss (R614), for the structure that `addr` names, read on behalf of VOQ `q`. Which copy a word of the
residue or of a hold list belongs to is the model's choice (log 22). -/
def ueQueue (d : Dev) (q : VoqKey) (addr : Nat) : Dev :=
  let n := q.die
  let drop := fun (l : List Nat) => match atRound l (bitsOf addr 0 28) with
    | some i => ueCopy (markAudit d n) (copyOf d i) 9728
    | none => d
  match bitsOf addr 28 4 with
  | 0 => match (voqOf d q).head with
    | t :: _ => abortItem (dropItem (markAudit d n) q t drUeCell) q t.fid
    | [] => d
  | 1 => flushVoq (markAudit d n) q drUeCell
  | 2 => if q.mc then d else onPort d q.target fun p => { p with creditStop := true }
  | 3 => drop (dieOf d n).residue
  | 4 => if q.mc then d else drop (portOf d q.target).holdList
  | _ => d

/-- A word that VOQ_SEND reads with an error: of a cell, of a link word or of the queue memories (R603, R610, R614). -/
def sendError (d : Dev) (q : VoqKey) (a : Access) : Dev :=
  if !alive d q.die then d
  else if a.mem = 6 then match a.err with
    | .none => d
    | .ce syn => recordError d q.die 6 a.addr syn.toNat false false 0
    | .ue syn => ueQueue (recordError d q.die 6 a.addr syn.toNat true false 0) q a.addr
  else if (a.mem = 0 && decide (a.addr < combCells * 32)) || (a.mem = 1 && decide (a.addr < combCells)) then
    storedError d q.die a.mem a.addr a.err false
  else d

/-- VOQ_SEND: a VOQ sends its head frame; `acc` is a word that this reads with an error. -/
def execVoqSend (q : VoqKey) (acc : Access) (s : State) : Host.Outcome State Fault Refusal :=
  onDev s fun d => voqSend (sendError d q acc) q

/-- ALLOCATOR_CLOCK: one clock of the allocator; `acc` is a link word that it reads with an error (R613). -/
def execAllocatorClock (die : Nat) (acc : Access) (s : State) : Host.Outcome State Fault Refusal :=
  onDev s fun d => allocClock (if acc.mem = 1 && decide (acc.addr < combCells) && alive d die then
    storedError d die 1 acc.addr acc.err false else d) die

/-- READBACK_DONE: the page read of the die that started first completes; `err` is the error of its word `word`, if any
(R367, R603, R610). A word that the forager found uncorrectable is so again. -/
def execReadbackDone (die word : Nat) (err : MemErr) (s : State) : Host.Outcome State Fault Refusal :=
  onDev s fun d =>
    if !alive d die then d
    else match firstPage d die .reading with
      | none => d
      | some (q, p) =>
        let d := match err with
          | .none => d
          | .ce syn => recordError d die 2 (p.idx * 512 + word % 512) syn.toNat false false 0
          | .ue syn => recordError d die 2 (p.idx * 512 + word % 512) syn.toNat true false 0
        let bad := match err with
          | .ue _ => true
          | _ => false
        let d := match p.ue with
          | some w => if bad then d else
            let u := takeUnstated d
            recordError u.2 die 2 (p.idx * 512 + w) (u.1 % 256) true false 0
          | none => d
        finishRead d die q p (bad || p.ue.isSome)

/-- What CNT_READ meets in the copies of a counter: one bad copy is rewritten from the other, and two leave the data
bits of copy 0 (R615). -/
def counterError (d : Dev) (n : Nat) (e : CntErr) : Dev :=
  let isUe := fun x : MemErr => match x with
    | .ue _ => true
    | _ => false
  let both := isUe e.copy0 && isUe e.copy1
  let one := fun (d : Dev) (c : Nat) (x : MemErr) => match x with
    | .none => d
    | .ce syn => recordError d n 7 (c * 1048576 + e.index) syn.toNat false false 0
    | .ue syn => recordError d n 7 (c * 1048576 + e.index) syn.toNat true false (if both then 4 else 7)
  let d := one (one d 0 e.copy0) 1 e.copy1
  if both then onDie d n fun x => { x with counters := kput x.counters e.index e.bits.toNat } else d

/-- CNT_READ; `err` is an error of one of the counters that it reads. -/
def specCntReadErr (via : Nat) (d : Dev) (p : BitVec 384) (err : Option CntErr) : CmdSpec :=
  let sp := specCntRead via d p
  { sp with run := fun d => match err with
    | none => sp.run d
    | some e => sp.run (if pf p 4 4 ≤ e.index ∧ e.index < pf p 4 4 + pf p 8 4 then counterError d (pf p 0 1) e else d) }

def execCntRead (c : Cmd) (err : Option CntErr) (s : State) : Host.Outcome State Fault Refusal :=
  onDev s fun d => runCmd (specCntReadErr c.die d c.params err) c d

/-- FREE_LIST_REBUILD: firmware links every FREE cell that is not on the list, and an audit falls due (R612, R613). -/
def execFreeListRebuild (die : Nat) (s : State) : Host.Outcome State Fault Refusal :=
  onDev s fun d =>
    if !alive d die || !(combOf d die).listBroken || (dieOf d die).keeper != .running then d
    else noteFree (onComb d die fun b => { relink b 0 combCells with listBroken := false, audit := true }) die

/-- CREDIT_RECOUNT: firmware recounts the committed cells of a port, and its credits go on (R382, R614). -/
def execCreditRecount (port : Nat) (s : State) : Host.Outcome State Fault Refusal :=
  onDev s fun d =>
    if !(portOf d port).creditStop then d
    else onPort d port fun q => { q with
      creditStop := false
      sent := ((d.copies.filter fun c => c.port == port).map (·.ncells)).sum }

/- Keeper restarts (R565, R616 to R619, R673). -/

/-- A complete mirror of the master copy exists (R617). -/
def mirrorComplete (d : Dev) : Bool := d.mirrorOk && (mirrorDie d).any fun n => (dieOf d n).keeper == .running

/-- Commands in progress on d0 when its Keeper traps: a drain or a handover that has not reached its change changed
nothing and completes with DIE_RESTARTING (R565, R646). -/
def cancelWaits (d : Dev) (n : Nat) : Dev :=
  let hit := fun p : Pend => match p.wait with
    | some (.drain a b) => n == 0 || n == a || n == b
    | some .handover => n == 0 && d.ha.holder
    | _ => false
  let gone := d.pends.filter hit
  let d := gone.foldl (fun d p =>
    let d := match p.wait with
      | some (.drain a b) => onDie d a fun x => { x with draining := x.draining.filter fun e => e.1 != b }
      | _ => { d with ha := { d.ha with handover := false } }
    if p.seq = 0 then d else journal d (.cancel p.seq)) d
  { d with pends := d.pends.map fun p => if hit p then
    { p with status := stRestarting, detail := 65536 * 2 ^ n, result := [], wait := none } else p }

/-- The Keeper of die `n` traps: its restart begins, or begins anew (R616, R618, R650). When it holds the mirror from which
d0 is restarting, no complete mirror exists any more, and the package is lost (R617, DEDUCED in log 59). -/
def startRestart (d : Dev) (n cause : Nat) : Dev :=
  let again := (dieOf d n).keeper == .restarting
  let d := onDie d n fun x => { x with
    keeper := .restarting
    trapAt := if again then x.trapAt else d.now
    trapCause := cause }
  let d := flushPends (cancelWaits d n)
  let d := if d.ha.paired && !d.ha.holder then becomeStale d 5 else d
  if mirrorDie d = some n && (dieOf d 0).keeper == .restarting then dieLost d 0 else d

/-- A Keeper trap (R616 to R618, R673): four within 1 s before READY first rises send d0 to its other firmware copy; four
at any other time, or one of d0 without a complete mirror, are a fatal fault. -/
def trapKeeper (s : State) (n cause : Nat) : State :=
  let d := s.dev
  let x := dieOf d n
  if !alive d n || d.run != .running || !(x.keeper == .running || x.keeper == .restarting) then s
  else
    let l := (d.now :: x.traps.filter fun t => decide (d.now < t + sec)).take 4
    let d := onDie d n fun x => { x with traps := l }
    if n = 0 && !mirrorComplete d then { s with dev := dieLost d 0 }
    else if l.length < 4 then { s with dev := startRestart d n cause }
    else if n = 0 && !d.readyOnce then
      let a := { s.aon with badFw := s.aon.fwRun :: s.aon.badFw }
      let s := { s with aon := a, dev := d }
      match pickFw a with
      | some k => startDevice s k ((List.range 8).filter fun m => (dieOf d m).lost)
      | none => startRecovery s
    else { s with dev := dieLost d n }

/-- KEEPER_TRAP with its cause as EV_KEEPER_RESTART gives it (R572, R616); an uncorrectable word of the instruction or
data SRAM is counted and logged at an ADDRESS that the operand does not give (log 18). -/
def execKeeperTrap (die cause : Nat) (s : State) : Host.Outcome State Fault Refusal :=
  let x := dieOf s.dev die
  if cause > 4 || !alive s.dev die || s.dev.run != .running || !(x.keeper == .running || x.keeper == .restarting) then .next s
  else
    let d := if cause = 0 ∨ cause = 2 then
        let u := takeUnstated s.dev
        let m := if cause = 0 then 3 else 4
        recordError u.2 die m (u.1 % (if cause = 0 then 65536 else 131072) * 8) (u.1 / 131072 % 256) true false 1
      else s.dev
    .next (trapKeeper { s with dev := d } die cause)

/-- FIRMWARE_WATCHDOG_EXPIRY: the watchdog of a Keeper has not been served for 100 ms (R616). -/
def execFirmwareWatchdogExpiry (die : Nat) (s : State) : Host.Outcome State Fault Refusal := .next (trapKeeper s die 1)

/-- The image store of die `n` can be rewritten: from another die whose image matches the recorded digest, or from a flash
copy that does; `bad` are the dies whose images do not (R619). -/
def imageSource (s : State) (n : Nat) (bad : List Nat) : Bool :=
  ((aliveDies s.dev).any fun m => m != n && !bad.contains m)
    || (List.range 2).any fun k => Config.sha384 ((fwCopy s.aon k).take (fwLen (fwCopy s.aon k))) == Config.sha384 s.aon.fwImage

/-- Image-store repair (R619): the store is rewritten, and where no source holds the image, the die and every other whose
store was found without it report fatal faults. -/
def repairImage (s : State) (n : Nat) (bad : List Nat) : State :=
  if imageSource s n bad then s else { s with dev := (n :: bad).foldl dieLost s.dev }

/-- KEEPER_RESTART_DONE: the image is copied from the image store, which is repaired first when a word of it is
uncorrectable or its digest does not match; the die's configuration equals the master copy again, which d0 rebuilds from its
mirror; actions that it missed are committed, completions are written and EV_KEEPER_RESTART is raised (R173, R529, R566,
R616 to R619). A learned MAC entry has no master copy and keeps its parity (R282). -/
def execKeeperRestartDone (r : ImageCopy) (s : State) : Host.Outcome State Fault Refusal :=
  let die := r.die
  if !alive s.dev die || (dieOf s.dev die).keeper != .restarting then .next s
  else
    let isUe := match r.err with
      | .ue _ => true
      | _ => false
    let d := match r.err with
      | .none => s.dev
      | .ce syn => recordError s.dev die 5 (8 * (r.word % 65536)) syn.toNat false false 0
      | .ue syn => recordError s.dev die 5 (8 * (r.word % 65536)) syn.toNat true false 3
    let s := { s with dev := d }
    let s := if isUe || r.badImages.contains die then repairImage s die r.badImages else s
    onDev s fun d =>
      if !alive d die || d.run != .running then d
      else
        let x := dieOf d die
        let d := if die = 0 then { d with master := d.mirror }
          else if mirrorDie d = some die then { d with mirror := d.master } else d
        let d := onDie d die fun x => { x with
          tab := d.master
          late := []
          badPar := x.badPar.filter fun b => b.1 == 3 && x.mac.any fun e => e.1 == b.2 && !e.2.static }
        let d := x.late.foldl (fun d a => applyEmbed [die] a.opcode a.params a.record d) d
        let d := onDie d die fun x => { x with
          keeper := .running
          restarts := (x.restarts + 1) % two32
          lastRestart := grainOf d }
        raise (flushPends d) die evKeeperRestart (leBytes 1 die ++ leBytes 1 x.trapCause ++ leBytes 2 0
          ++ leBytes 4 (min (two32 - 1) ((d.now - x.trapAt) / us)))

/-- MIRROR_REBUILD_DONE: the mirror of the master copy stands on the next die, rebuilt from a running d0 (R617). -/
def execMirrorRebuildDone (s : State) : Host.Outcome State Fault Refusal :=
  onDev s fun d =>
    if (dieOf d 0).keeper == .running && (mirrorDie d).any fun n => (dieOf d n).keeper == .running then
      { d with mirror := d.master, mirrorOk := true }
    else d

/- The forager (R606 to R609). -/

/-- Lines of a memory that the forager walks. -/
def walkLines : Nat → Nat
  | 0 => 786432
  | 1 => 24576
  | 2 => 268435456
  | 3 => 8192
  | 4 => 16384
  | _ => 8192

/-- Pass time of a memory, min (R627). -/
def passTime (x : Die) (m : Nat) : Nat := x.scrub.getD (if m < 2 then 0 else if m = 2 then 1 else 2) 240

/-- ADDRESS of word `w` of a memory, counted through it (R600). -/
def wordAddress (m w : Nat) : Nat := if m < 3 then w else 8 * w

/-- The forager goes on to the next line, which falls due at its place in the pass (R606, R608). -/
def walkOn (x : Die) (m : Nat) : Die :=
  let i := x.walk.getD m 0 + 1
  let step := passTime x m * 60 * sec + x.walkRem.getD m 0
  let full := decide (i ≥ walkLines m)
  { x with
    walk := lmod x.walk m fun _ => if full then 0 else i
    walkAt := lmod x.walkAt m fun t => t + step / walkLines m
    walkRem := lmod x.walkRem m fun _ => step % walkLines m
    passes := if full then lmod x.passes m fun k => (k + 1) % two32 else x.passes }

/-- An uncorrectable word that the forager finds in a Keeper memory: a restart of the Keeper, or the repair of the image
store, which a die without any source for it does not survive (R610, R616, R619). -/
def keeperMemory (s : State) (n m addr syn : Nat) (bad : List Nat) : State :=
  let s' := { s with dev := recordError s.dev n m addr syn true true (if m = 5 then 3 else 1) }
  if m ≠ 5 then trapKeeper s' n 3 else repairImage s' n bad

/-- What the forager meets in word `k` of a line, ADDRESS `addr` (R607, R609, R610). -/
def foragerWord (n m : Nat) (bad : List Nat) (s : State) (addr : Nat) (err : MemErr) : State :=
  if !alive s.dev n then s
  else if m < 3 then { s with dev := storedError s.dev n m addr err true }
  else match err with
    | .none => s
    | .ce syn => { s with dev := recordError s.dev n m addr syn.toNat false true 0 }
    | .ue syn => keeperMemory s n m addr syn.toNat bad

/-- FORAGER_LINE: the forager of a die reads the next line of a memory, once it is due, corrects each correctable word and
writes the line back (R606 to R609). `errs` gives the words of the line that it reads with an error, taken in ascending
order; `bad` the dies whose image stores fail the check of a repair (R619). Its bound is 1 s, and before that it gives way
to learning and to the aging sweep (R490 to R493). -/
def execForagerLine (die memory : Nat) (errs : List (Nat × MemErr)) (bad : List Nat) (s : State) :
    Host.Outcome State Fault Refusal :=
  let x := dieOf s.dev die
  if !alive s.dev die || s.dev.run != .running || memory > 5 then .next s
  else match takeSlot s.dev die 4 (x.walkAt.getD memory 0) sec with
  | none => .next s
  | some d =>
    let line := x.walk.getD memory 0
    .next ((List.range 8).foldl (fun s k =>
      foragerWord die memory bad s (wordAddress memory (8 * line + k)) (kget errs k .none))
      { s with dev := onDie d die fun x => walkOn x memory })

/- DMA channels (R568, R620, R621). -/

/-- An uncorrectable word of the data staging of a DMA channel (R610): EV_MEM_UE with OUTCOME 2, within its rate (R603). The
spec gives that memory no ID, and of the word no ADDRESS: both bytes are unstated values (log 18). -/
def stagingError (d : Dev) (n : Nat) : Dev :=
  let k := logOf d n 8
  let c := (k.ueN + 1) % two32
  if mayRaise d k.ueAt (10 * ms) then
    let u := takeUnstated d
    raise (onLog u.2 n 8 fun k => { k with ueN := 0, ueAt := some d.now }) n evMemUe
      (leBytes 1 u.1 ++ leBytes 1 0 ++ leBytes 1 2 ++ leBytes 1 0 ++ leBytes 4 (u.1 / 256) ++ leBytes 4 c)
  else onLog d n 8 fun k => { k with ueN := c }

/-- DMA_READ_ERROR: a DMA channel of a die halts; `cause` is that of EV_DMA_HALT. The transfer in progress is abandoned:
a frame or copy being written to a ring is dropped (R620). -/
def execDmaReadError (die channel cause : Nat) (s : State) : Host.Outcome State Fault Refusal :=
  onDev s fun d =>
    let x := dieOf d die
    if !alive d die || channel > 3 || cause > 2 then d
    else if channel = 0 then
      if x.mbHalt then d else setCause (onDie (if cause = 0 then stagingError d die else d) die fun x => { x with mbHalt := true }) die intMbHalt
    else if x.halted.contains channel then d
    else
      let d := if cause = 0 then stagingError d die else d
      let d := raise (onDie d die fun x => { x with
        halted := channel :: x.halted
        haltAt := if channel = 1 then d.now else x.haltAt }) die evDmaHalt (leBytes 1 channel ++ leBytes 1 cause)
      match channel, x.puntQ, x.tapQ with
      | 2, i :: r, _ => dropSlow (onDie d die fun x => { x with puntQ := r }) die (frameOf d i) drPuntFull
      | 3, _, i :: r => dropSlow (onDie d die fun x => { x with tapQ := r }) die (frameOf d i) drTapFull
      | _, _, _ => d

/- Commands (R605, R622 to R629). -/

/-- MEM_SCRUB_SET. -/
def specMemScrubSet (d : Dev) (p : BitVec 384) : CmdSpec :=
  let mask := pf p 0 1
  let ok := fun off => badIf off (decide (pf p off 2 < 10) || decide (pf p off 2 > 1440))
  { opcode := 0x0A01, kind := .l, keepers := 0 :: bitList 8 mask, checks := [ckMask d 0 mask, resB p 1 1, ok 2, ok 4, ok 6],
    run := fun d => (onDies d (bitList 8 mask) fun x => { x with scrub := [pf p 2 2, pf p 4 2, pf p 6 2] }, {}) }

def execMemScrubSet (c : Cmd) (s : State) : Host.Outcome State Fault Refusal :=
  onDev s fun d => runCmd (specMemScrubSet d c.params) c d

/-- The location that a log entry names is retired (R627). -/
def isRetired (x : Die) (m addr : Nat) : Bool := match m with
  | 0 => x.comb.retired.contains (addr / 32 / rowCells)
  | 1 => x.comb.retired.contains (addr / rowCells)
  | 2 => x.pagesRetired.contains (addr / 512)
  | _ => false

def logBytes (x : Die) (m : Nat) (e : LogEntry) : List Byte :=
  leBytes 1 (1 + atBit 1 e.ue + atBit 2 e.forager + atBit 3 (isRetired x m e.address)) ++ leBytes 1 m ++ leBytes 2 e.syndrome
    ++ leBytes 4 e.address ++ leBytes 4 e.count ++ leBytes 4 0 ++ leBytes 8 e.first ++ leBytes 8 e.last

/-- MEM_LOG_READ reads a log and, with CLEAR, empties it in the same step (R605). -/
def specMemLogRead (via : Nat) (d : Dev) (p : BitVec 384) : CmdSpec :=
  let n := pf p 0 1
  let m := pf p 1 1
  { opcode := 0x0A02, kind := .r, any := true, keepers := [n],
    checks := [ckDie d 0 n, badIf 1 (m > 7), resv p 2 1 0xFE, resB p 3 5, ckAlign 8 64 (pf p 8 8)],
    run := fun d =>
      let k := logOf d n m
      let d := hostWrite d via .pf0 (pf p 8 8) (padTo 512 (k.entries.flatMap (logBytes (dieOf d n) m)))
      (if bitOf (pf p 2 1) 0 then onLog d n m fun k => { k with entries := [], overflow := 0 } else d,
       okResult (leBytes 1 k.entries.length ++ leBytes 3 0 ++ leBytes 4 k.overflow)) }

def execMemLogRead (c : Cmd) (s : State) : Host.Outcome State Fault Refusal :=
  onDev s fun d => runCmd (specMemLogRead c.die d c.params) c d

def groupHeld (b : Comb) (g : Nat) : Bool := b.held.any fun h => h.cell / rowCells == g

/-- MEM_RETIRE retires a page or a row group (R622 to R624, R628). -/
def specMemRetire (d : Dev) (p : BitVec 384) : CmdSpec :=
  let n := pf p 0 1
  let kind := pf p 1 1
  let i := pf p 4 4
  let x := dieOf d n
  let full := if kind = 0 then !x.pagesRetired.contains i && decide (x.pagesRetired.length ≥ 65536)
    else !x.comb.retired.contains i && decide (x.comb.retired.length ≥ 48)
  { opcode := 0x0A03, kind := .l, keepers := [0, n],
    checks := [ckDie d 0 n, badIf 1 (kind > 1), resB p 2 2, badIf 4 (i ≥ if kind = 0 then 4194304 else 3072)],
    late := if full then some stNoRoom else none,
    run := fun d =>
      let x := dieOf d n
      if kind = 0 then
        (if x.pagesRetired.contains i then d
          else noteStoreFull d (onDie d n fun x => { x with pagesRetired := i :: x.pagesRetired }) n,
         okResult (leBytes 1 (atBit 0 (x.pagesUsed.contains i))))
      else
        (if x.comb.retired.contains i then d else noteFree (onComb d n fun b => { b with retired := i :: b.retired }) n,
         okResult (leBytes 1 (atBit 0 (groupHeld x.comb i)))) }

def execMemRetire (c : Cmd) (s : State) : Host.Outcome State Fault Refusal :=
  onDev s fun d => runCmd (specMemRetire d c.params) c d

/-- MEM_STATUS, which d0 answers for a die whose Keeper is restarting (R627). -/
def specMemStatus (d : Dev) (p : BitVec 384) : CmdSpec :=
  let n := pf p 0 1
  { opcode := 0x0A04, kind := .r, wide := true, any := true, keepers := if (dieOf d n).keeper = .restarting then [0] else [],
    checks := [ckDie d 0 n],
    run := fun d =>
      let x := dieOf d n
      let pass := fun m => x.passes.getD m 0
      (d, okResult (leBytes 4 (min (pass 0) (pass 1)) ++ leBytes 4 (pass 2) ++ leBytes 4 (min (pass 3) (min (pass 4) (pass 5)))
        ++ leBytes 4 x.pagesRetired.length ++ leBytes 2 x.comb.retired.length
        ++ leBytes 1 (atBit 0 x.mbHalt + atBit 1 (x.halted.contains 1) + atBit 2 (x.halted.contains 2) + atBit 3 (x.halted.contains 3))
        ++ leBytes 1 0 ++ leBytes 4 (x.pagesRetired.filter x.pagesUsed.contains).length
        ++ leBytes 2 (x.comb.retired.filter (groupHeld x.comb)).length)) }

def execMemStatus (c : Cmd) (s : State) : Host.Outcome State Fault Refusal :=
  onDev s fun d => runCmd (specMemStatus d c.params) c d

/-- The compare pass of a table resumes where the halt of the counter channel stopped it (R620). -/
def resumePass (x : Die) (now : Nat) (e : ErrMode) : ErrMode :=
  { e with sweep := { e.sweep with at' := e.sweep.at' + (now - max x.haltAt e.sweep.at') } }

/-- MEM_CHANNEL_RESTART; a restarted counter channel writes its next snapshot with SKIPPED set (R621, R629). -/
def specMemChannelRestart (d : Dev) (p : BitVec 384) : CmdSpec :=
  let n := pf p 0 1
  let c := pf p 1 1
  { opcode := 0x0A05, kind := .l, keepers := [0, n], checks := [ckDie d 0 n, badIf 1 (c == 0 || decide (c > 3))],
    run := fun d =>
      if !(dieOf d n).halted.contains c then (d, {})
      else
        let d := onDie d n fun x => { x with
          halted := x.halted.filter (· != c)
          errModes := if c = 1 then x.errModes.map fun e => (e.1, resumePass x d.now e.2) else x.errModes }
        (if c = 1 then { d with dies := d.dies.map fun x => if x.snap.enable && x.snap.home == n then
          { x with snap := { x.snap with skipped := true } } else x } else d, {}) }

def execMemChannelRestart (c : Cmd) (s : State) : Host.Outcome State Fault Refusal :=
  onDev s fun d => runCmd (specMemChannelRestart d c.params) c d

end Sys2Proof.Machine
end

