-- ==== Sys2Proof/Machine/Commit.lean ====
section
/-! DEFINITION. What a standby applies: journal entries and snapshot records (R157, R646, R647, R650, R652). Entry bodies
are internal to the firmware version; the model gives a COMMAND the command and its records, and the other kinds the
items that R646 lists. -/

namespace Sys2Proof.Machine

/-- The command of kind W with a given opcode, parameters and host-memory record (R574, R646). -/
def commitSpec (d : Dev) (op : Nat) (p : BitVec 384) (r : List Byte) : Option CmdSpec := match op with
  | 0x0201 => some (specPortConfig d p)
  | 0x0203 => some (specPortRetrain d p)
  | 0x0204 => some (specPortTest d p)
  | 0x0206 => some (specPortRelease d p)
  | 0x0301 => some (specTenVeSet d p)
  | 0x0303 => some (specTenSet d p)
  | 0x0401 => some (specTblMacAdd d p)
  | 0x0402 => some (specTblMacDel d p)
  | 0x0403 => some (specTblMacFlush d p)
  | 0x0405 => some (specTblMacConfig d p)
  | 0x0406 => some (specTblBdSet d p)
  | 0x0407 => some (specTblRouteSet d p)
  | 0x0409 => some (specTblErrModeSet d p)
  | 0x040B => some (specTblMcgSet d p r)
  | 0x0501 => some (specClsRuleSet d p r)
  | 0x0503 => some (specClsPortSet d p)
  | 0x0504 => some (specClsParserSet d p)
  | 0x0505 => some (specClsUdfSet d p)
  | 0x0506 => some (specClsPuntRingSet d p)
  | 0x0601 => some (specPolSet d p)
  | 0x0603 => some (specMirSet d p)
  | 0x0604 => some (specMirTapSet d p)
  | 0x0606 => some (specCntClear d p)
  | 0x0701 => some (specQosBufSet d p)
  | 0x0702 => some (specQosBufProfileSet d p)
  | 0x0703 => some (specQosVoqBind d p)
  | 0x0704 => some (specQosTenBufSet d p)
  | 0x0707 => some (specQosPathSet d p r)
  | 0x0709 => some (specQosCtSet d p)
  | 0x070B => some (specQosWredSet d p)
  | 0x070C => some (specQosWredBind d p)
  | 0x070D => some (specQosFcSet d p)
  | 0x070F => some (specQosMcSet d p)
  | 0x0710 => some (specQosSchedPortSet d p)
  | 0x0711 => some (specQosSchedGroupSet d p)
  | 0x0712 => some (specQosSchedMapSet d p)
  | 0x0720 => some (specPwrCapSet d p)
  | 0x0721 => some (specPwrPolicySet d p)
  | 0x0810 => some (specSchedAdd d p (BitVec.ofNat 512 (ofLe (padTo 64 r))) (r.drop 64))
  | 0x0811 => some (specSchedDel d p)
  | _ => none

/-- A COMMAND entry takes effect on every die (R647). The table that a QOS_PATH_SET replaces is kept for a CANCEL. -/
def commitCommand (d : Dev) (seq op : Nat) (p : BitVec 384) (r : List Byte) : Dev :=
  match commitSpec d op p r with
  | none => d
  | some sp =>
    let a := pf p 0 1
    let e := pf p 1 1
    let d := if op = 0x0707 then
        let rest := d.ha.undo.filter fun u => !(u.2.1 == a && u.2.2.1 == e)
        { d with ha := { d.ha with undo := rest ++ [(seq, a, e, pathTable d a e)] } }
      else d
    (sp.run d).1

/-- A CANCEL entry undoes the command of the entry it names, which changed nothing on the holder (R565, R646). The
commands that can be cancelled are those that wait for a drain. -/
def commitCancel (d : Dev) (seq : Nat) : Dev :=
  match d.ha.undo.find? fun u => u.1 == seq with
  | none => d
  | some (_, a, e, old) =>
    let d := onDie d a fun x => { x with
      draining := x.draining.filter fun g => g.1 != e
      paths := kput x.paths e old }
    { d with ha := { d.ha with undo := d.ha.undo.filter fun u => u.1 != seq } }

/-- A LEARN entry is written with exactly the index, moves and victim that it gives (R647). -/
def commitLearn (d : Dev) (n index : Nat) (e : MacEntry) (moves : List (Nat × Nat)) (victim : Option Nat) : Dev :=
  if !alive d n then d
  else
    let old := (dieOf d n).mac
    let d := onDie d n fun x =>
      let kept := x.mac.filter fun o => !victim.any fun v => o.1 == v
      { x with mac := (index, e) :: (moves.foldl moveEntry kept).filter fun o => o.1 != index && o.2.key != e.key }
    let gone := (old.filter fun o => !(dieOf d n).mac.contains o).map (·.2.tenant)
    (e.tenant :: gone).foldl (fun d t => checkOver d n t) d

/-- A MAC_REMOVE entry removes the learned entry at its index (R647). -/
def commitRemove (d : Dev) (n index : Nat) : Dev :=
  match (dieOf d n).mac.find? fun o => o.1 == index with
  | none => d
  | some (i, e) => if e.static || !alive d n then d else checkOver (macDrop d n i) n e.tenant

/-- An ACTION_RUN entry: the pending action commits (R646, R655). -/
def commitActionRun (d : Dev) (id : Nat) : Dev :=
  match d.actions.find? fun a => a.id == id with
  | none => d
  | some a => (commitAction { d with actions := d.actions.filter fun b => b.id != id } a).2

/-- A pending action of a snapshot record, with its ACTION_ID (R652). -/
def commitPending (d : Dev) (id k t op : Nat) (p : BitVec 384) (r : List Byte) : Dev :=
  let a : Action := { id := id, domain := k, t := t, opcode := op, params := p, record := r, past := false, readyAt := d.now }
  { d with
    actions := (d.actions.filter fun b => b.id != id) ++ [a]
    nextAction := (id + 1) % two32 }

/-- The effect of an entry or record with sequence number `seq`, on an IN_SYNC or RESYNCING standby. A LEASE entry of a
handover makes an IN_SYNC standby the holder (R657). -/
def commitBody (d : Dev) (seq : Nat) (b : JBody) : Dev := match b with
  | .command op p r => commitCommand d seq op p r
  | .cancel s => commitCancel d s
  | .learn n key dest tenant index group moves victim =>
    commitLearn d n index { key := key, dest := dest, tenant := tenant, group := group, act := true } moves victim
  | .macRemove n index => commitRemove d n index
  | .actionRun id => commitActionRun d id
  | .dieLost n => parkDie d n
  | .lease epoch handover => if handover && d.ha.sync == .inSync && !d.thermal then takeLease d 5 epoch else d
  | .action id k t op p r => commitPending d id k t op p r

/- Which objects an entry changes (R652). -/

/-- Commands whose first parameter byte is a mask of dies. -/
def masked (op : Nat) : Bool := [0x0701, 0x0501, 0x070B, 0x0601, 0x0721, 0x0403, 0x0405].contains op

/-- Parameter bytes, as bits of a mask, that name the object which a command writes. -/
def keyBytes (op : Nat) : Nat := match op with
  | 0x0201 | 0x0203 | 0x0204 | 0x0206 | 0x0503 | 0x0709 | 0x070D | 0x0710 => 3
  | 0x0301 | 0x0303 | 0x0704 | 0x0406 | 0x0409 | 0x040B | 0x0707 | 0x0506 | 0x0604 => 3
  | 0x0401 | 0x0402 => 0xFF
  | 0x0407 => 0xFFFF000F
  | 0x0501 => 0xE
  | 0x0601 => 0xC
  | 0x070B => 2
  | 0x0505 | 0x0603 | 0x0702 => 1
  | 0x0703 | 0x070C | 0x0712 | 0x0811 => 0xF
  | 0x0711 => 7
  | 0x0606 => 0xFFF
  | _ => 0

/-- The value of the parameter bytes that name the object. -/
def keyOf (op : Nat) (p : BitVec 384) : Nat :=
  ((List.range 48).filter fun i => bitOf (keyBytes op) i).foldl (fun k i => k * 256 + pf p i 1) 0

/-- Objects that an entry or record changes: by opcode, die and key; learned entries by die and index; pending actions
by ACTION_ID. -/
def objectsOf (b : JBody) : List (Nat × Nat) := match b with
  | .command op p _ =>
    if op = 0x0811 then [(0x30000, pf p 0 4)]
    else if masked op then (bitList 8 (pf p 0 1)).map fun n => (op + 0x100000 * (n + 1), keyOf op p)
    else [(op, keyOf op p)]
  | .learn n _ _ _ index _ moves victim =>
    (index :: victim.toList ++ moves.flatMap fun m => [m.1, m.2]).map fun i => (0x20000 + n, i)
  | .macRemove n index => [(0x20000 + n, index)]
  | .actionRun id => [(0x30000, id)]
  | .action id _ _ _ _ _ => [(0x30000, id)]
  | .cancel _ => []
  | .dieLost _ => []
  | .lease _ _ => []

/-- A journal entry is applied; during a resynchronisation the objects it changes are noted (R647, R652, R659). -/
def commitEntry (d : Dev) (e : JEntry) : Dev :=
  let note := if d.ha.sync = .resyncing then (objectsOf e.body).map fun o => (o, e.seq) else []
  let d := { d with ha := { d.ha with
    seq := e.seq
    recvd := e.seq
    applied := e.seq
    based := true
    touched := note ++ d.ha.touched } }
  commitBody (bumpDie d 0 cntJournalApplied 1) e.seq e.body

/-- A snapshot record is applied, unless an entry of higher SEQ has changed its object (R652). The first one gives the
base SEQ when no entry has. -/
def commitRecord (d : Dev) (r : SnapRec) : Dev :=
  let stale := (objectsOf r.body).any fun o => d.ha.touched.any fun t => t.1 == o && decide (t.2 > r.seq)
  let d := { d with ha := { d.ha with
    seq := if d.ha.based then d.ha.seq else r.seq
    recvd := if d.ha.based then d.ha.recvd else r.seq
    applied := if d.ha.based then d.ha.applied else r.seq
    based := true
    lastSnap := d.ha.lastSnap || r.last } }
  if stale then d else commitBody d r.seq r.body

end Sys2Proof.Machine
end

