-- ==== Sys2Proof/Machine/Ha.lean ====
section
/-! DEFINITION. The events and commands of active and standby pairing (chapter 16, R155 to R158). -/

namespace Sys2Proof.Machine

/-- The package takes part in a pair (R630). -/
def pairRuns (d : Dev) : Bool := d.ha.paired && d.run == .running && alive d 0

/-- A paired package that does not hold the lease. -/
def isStandby (d : Dev) : Bool := pairRuns d && !d.ha.holder

/-- A paired package that holds the lease. -/
def isHolder (d : Dev) : Bool := pairRuns d && d.ha.holder

/-- The package can take the lease: in thermal stop it transmits nothing and renews nothing (R721). -/
def mayTake (d : Dev) : Bool := isStandby d && !d.thermal

/- Renewals and answers (R634 to R639). -/

/-- LEASE_RENEWAL_DUE: LEASE / 4 has passed since the last renewal (R634, R635). -/
def execLeaseRenewalDue (s : State) : Host.Outcome State Fault Refusal :=
  onDev s fun d => if isHolder d && expired d d.ha.renewAt (d.ha.inForce * ms / 4) then withLease d sendRenewal else d

/-- QUEEN_OUT_FALL: 500 µs after its rise (R635, R637, R599). -/
def execQueenOutFall (s : State) : Host.Outcome State Fault Refusal :=
  onDev s fun d =>
    if d.ha.queenOut && expired d d.ha.queenAt (500 * us) then
      withLease d fun d => emit { d with ha := { d.ha with queenOut := false } } (.pin "QUEEN_OUT" false)
    else d

/-- ANNOUNCE_DUE: a paired package that has neither held the lease nor received a RENEW announces itself every LEASE / 4
while the peer link is UP (R633). -/
def execAnnounceDue (s : State) : Host.Outcome State Fault Refusal :=
  onDev s fun d =>
    if isStandby d && !d.ha.sawRenew && peerUp d && expired d d.ha.annAt (leaseNow d * ms / 4) then
      sendPeer { d with ha := { d.ha with annAt := d.now } } 3 0 d.ha.seq 0
    else d

/-- ANSWER_MISS: 1 ms has passed since a renewal without an answer on either path (R638). -/
def execAnswerMiss (s : State) : Host.Outcome State Fault Refusal :=
  onDev s fun d => if pairRuns d then missAnswer d else d

/-- The last renewal is answered (R638, R639). -/
def answered (d : Dev) : Dev := { d with ha := { d.ha with waiting := false, ansAt := some d.ha.renewAt } }

/-- An answer that arrives now is in time for the last renewal (R638). -/
def inTime (d : Dev) : Bool := d.ha.renewN != 0 && !expired d d.ha.renewAt ms

/-- A non-holder has seen a renewal (R636, R640, R643). -/
def seeRenewal (d : Dev) : Dev :=
  bumpDie { d with ha := { d.ha with seenAt := d.now, sawActive := true, activeAt := some d.now } } 0 cntHaRenewRx 1

/-- A non-holder that is IN_SYNC or STALE answers a renewal (R637). -/
def answers (d : Dev) : Bool := d.ha.sync == .inSync || d.ha.sync == .stale

/-- QUEEN_IN_EDGE: a filtered rising edge. It is judged when it comes at least 1 ms after the previous one and counts
under R715; on a holder it is an answer, on a non-holder a renewal (R636 to R638). -/
def execQueenInEdge (s : State) : Host.Outcome State Fault Refusal :=
  onDev s fun d =>
    if !pinsUp d || d.queen.level then d
    else
      let counts := pinReady d d.queen
      let apart := mayRaise d d.ha.edgeAt ms
      let d := { d with
        queen := { d.queen with level := true }
        ha := { d.ha with edgeAt := some d.now } }
      if !pairRuns d then d
      else if !apart then bumpDie d 0 cntQueenEdgeReject 1
      else if !counts then d
      else
        let pin := { d with ha := { d.ha with pinAt := some d.now } }
        if d.ha.holder then (if inTime d then answered pin else d)
        else withLease d fun _ => if answers pin then pulseQueen (seeRenewal pin) else seeRenewal pin

/-- QUEEN_IN_FALL (R715). -/
def execQueenInFall (s : State) : Host.Outcome State Fault Refusal :=
  onDev s fun d => if pinsUp d then { d with queen := pinLow d d.queen } else d

/- Peer frames (R156 to R158). -/

/-- A peer frame reaches the Keeper of d0: it has passed the checks of a received frame, and the far end has sent its
ROLE (R114 to R116, R139, R158). -/
def peerRx (d : Dev) : Bool := pairRuns d && peerUp d && (portOf d 0x5C).roleSeen

/-- When both packages report PREFERRED, the one with the higher d0 serial is not preferred (R633). -/
def settlePreference (d : Dev) (h : PeerHdr) : Dev :=
  if d.ha.preferred && h.preferred && decide (d.serial0 > h.serial.toNat) then
    raiseRole { d with ha := { d.ha with preferred := false } } 0
  else d

/-- A STALE_CAUSE between `lo` and `lo + n - 1` that no frame carries and the spec does not state (log 18). -/
def someCause (d : Dev) (lo n : Nat) : Nat × Dev :=
  let u := takeUnstated d
  (lo + u.1 % n, u.2)

/-- The holder starts the stream of a bulk resynchronisation from base SEQ S, and journals from S + 1 (R652). How many
records hold the configuration is a free value (log 57). -/
def startStream (d : Dev) : Dev :=
  let n := takeUnstated d
  let d := { n.2 with ha := { n.2.ha with
    sync := .resyncing
    buffer := []
    q6 := []
    recvd := d.ha.seq
    applied := d.ha.seq } }
  sendBulk d ((snapshotFrames d d.ha.seq (n.1 % 65536)).map fun l => (0, l))

/-- The holder follows the state that its standby reports (R156, R650, R652, R653). -/
def holderView (d : Dev) (h : PeerHdr) : Dev :=
  if h.holder then d
  else if h.sync = 1 ∧ journaling d then
    let c := someCause d 1 9
    becomeStale c.2 c.1
  else if h.sync = 2 ∧ d.ha.sync ≠ .resyncing then
    let c := someCause d 1 9
    startStream (if d.ha.sync = .inSync then becomeStale c.2 c.1 else d)
  else if h.sync = 3 ∧ d.ha.sync = .resyncing then
    { d with ha := { d.ha with
      sync := .inSync
      cause := 0
      inSyncAt := d.now } }
  else d

/-- What every peer frame tells of the sender (R156, R633, R650, R652, R663). -/
def peerHeader (d : Dev) (h : PeerHdr) : Dev :=
  let first := d.ha.sync == .none
  let d := { d with ha := { d.ha with
    sawPeer := true
    frameAt := some d.now
    serial := h.serial.toNat
    peerFw := h.fw.toNat
    peerPref := h.preferred
    peerHolds := h.holder
    sync := if first then .stale else d.ha.sync
    cause := if first then 1 else d.ha.cause } }
  let d := settlePreference d h
  let d := if h.fw.toNat != d.fwVersion then becomeStale d 4 else d
  if d.ha.holder then holderView d h
  else if h.holder then releasePends d (· == .handover) id
  else d

/-- A peer frame of a kind is received: the Keeper takes it from the frames that have arrived, and reads it, or discards
and counts it when its layout is wrong (R158). -/
def onPeer (s : State) (kind : Nat) (frame : List Byte) (f : PeerHdr → Dev → Dev) : Host.Outcome State Fault Refusal :=
  onDev s fun d =>
    let h := peerHdr frame
    if !peerRx d then d
    else
      let d := { d with ha := { d.ha with inbox := d.ha.inbox.erase frame } }
      if !peerLayout frame then bumpDie d 0 cntPeerBad 1
      else if peerKind frame ≠ kind then d
      else f h (peerHeader d h)

/-- A RENEW, ANSWER or RECEIPT has arrived (R644). -/
def notePeer (d : Dev) : Dev := { d with ha := { d.ha with peerAt := some d.now } }

/-- PEER_RX_RENEW: a newer EPOCH demotes a holder; a non-holder sees a renewal whose EPOCH is the newest it has received,
takes the LEASE of the frame, answers, and learns from the frame that it is STALE (R634, R636, R637, R642, R649). -/
def execPeerRxRenew (frame : List Byte) (s : State) : Host.Outcome State Fault Refusal :=
  onPeer s 1 frame fun h d =>
    let e := h.epoch.toNat
    let d := notePeer { d with ha := { d.ha with sawRenew := true, activeAt := some d.now } }
    let d := if d.ha.holder && newer e d.ha.epoch then demote d else d
    let d := noteEpoch d e false
    if d.ha.holder then d
    else
      let d := { d with ha := { d.ha with
        peerLease := if e = d.ha.seen then h.lease.toNat else d.ha.peerLease
        acked := d.ha.acked || h.sync == 2 } }
      let d := if h.sync = 1 ∧ (d.ha.sync = .inSync ∨ (d.ha.sync = .resyncing ∧ (d.ha.acked || d.ha.based))) then
          let c := someCause d 2 2
          becomeStale c.2 c.1
        else d
      if e ≠ d.ha.seen then d
      else
        let d := seeRenewal d
        if answers d then sendPeer d 2 h.number.toNat d.ha.seq 0 else d

/-- What the standby reports of the journal: the highest SEQ received, and the last applied (R648, R649). -/
def standbyReports (d : Dev) (received applied : Nat) : Dev :=
  if !journaling d then d
  else flushPends { d with ha := { d.ha with
    recvd := max d.ha.recvd received
    applied := max d.ha.applied applied
    buffer := d.ha.buffer.filter fun e => decide (e.1 > applied) } }

/-- PEER_RX_ANSWER: it answers the last renewal when it carries its number and EPOCH and comes within 1 ms (R637,
R638). -/
def execPeerRxAnswer (frame : List Byte) (s : State) : Host.Outcome State Fault Refusal :=
  onPeer s 2 frame fun h d =>
    let d := noteEpoch (notePeer d) h.epoch.toNat false
    let d := standbyReports d h.seq.toNat h.seq.toNat
    if h.number.toNat = d.ha.renewN ∧ h.epoch.toNat = d.ha.epoch ∧ inTime d then answered d else d

/-- PEER_RX_ANNOUNCE (R633, R643). -/
def execPeerRxAnnounce (frame : List Byte) (s : State) : Host.Outcome State Fault Refusal :=
  onPeer s 3 frame fun _ d => { d with ha := { d.ha with sawAnnounce := true } }

/-- PEER_RX_RECEIPT: completions that waited for the receipt are written (R648). -/
def execPeerRxReceipt (frame : List Byte) (s : State) : Host.Outcome State Fault Refusal :=
  onPeer s 4 frame fun h d => standbyReports (notePeer d) h.received.toNat h.seq.toNat

/-- A standby reports what it has received and applied (R648). -/
def sendReceipt (d : Dev) : Dev :=
  sendPeer { d with ha := { d.ha with receiptAt := d.now } } 4 0 d.ha.applied d.ha.recvd

/-- A standby whose state follows the journal. -/
def follows (d : Dev) : Bool := !d.ha.holder && (d.ha.sync == .inSync || d.ha.sync == .resyncing)

/-- Entries in SEQ order; one whose SEQ is not the next makes the standby STALE (R647, R650). A resynchronisation takes
its base from the first entry or record. -/
def applyEntries : List JEntry → Dev → Dev
  | [], d => d
  | e :: r, d =>
    if !follows d then d
    else if e.seq ≠ d.ha.seq + 1 ∧ ¬(d.ha.sync = .resyncing ∧ !d.ha.based) then becomeStale d 9
    else applyEntries r (commitEntry d e)

/-- The SEQs of a frame's entries (R157). -/
def seqsOf (frame : List Byte) : List Nat := (peerSeqs frame).getD []

/-- PEER_RX_JOURNAL: the standby applies the entries and acknowledges them (R647, R648, R657). `bodies` is what the
firmware reads in the BODY fields, whose coding is its own (R646). -/
def execPeerRxJournal (frame : List Byte) (bodies : List JBody) (s : State) : Host.Outcome State Fault Refusal :=
  onPeer s 5 frame fun _ d =>
    if !follows d then d
    else
      let d := applyEntries (List.zipWith (fun n b => ⟨n, b⟩) (seqsOf frame) bodies) d
      if d.ha.holder then d else sendReceipt d

/-- PEER_RX_SNAPSHOT: the records of a resynchronisation are applied (R652). -/
def execPeerRxSnapshot (frame : List Byte) (read : SnapBodies) (s : State) : Host.Outcome State Fault Refusal :=
  onPeer s 6 frame fun _ d =>
    if d.ha.sync = .resyncing ∧ !d.ha.holder then
      let d := (List.zipWith (fun n b => ⟨n, b, false⟩) (seqsOf frame) read.bodies).foldl commitRecord d
      { d with ha := { d.ha with lastSnap := d.ha.lastSnap || read.last } }
    else d

/-- RECEIPT_DUE: at least every 100 µs the standby reports its last applied SEQ (R648). -/
def execReceiptDue (s : State) : Host.Outcome State Fault Refusal :=
  onDev s fun d => if pairRuns d && follows d && peerUp d && expired d d.ha.receiptAt (100 * us) then sendReceipt d else d

/- Taking and losing the lease (R639 to R644). -/

/-- LEASE_EXPIRY_FENCE: the lease timer, from the send of the last answered renewal, reaches LEASE - 1 ms (R639). -/
def execLeaseExpiryFence (s : State) : Host.Outcome State Fault Refusal :=
  onDev s fun d =>
    if isHolder d && d.ha.ansAt.any fun t => expired d t ((d.ha.inForce - 1) * ms) then fence d 2 0 true else d

/-- LEASE_TAKEOVER: an IN_SYNC non-holder has seen no renewal for LEASE + 2 ms (R640, R641). -/
def execLeaseTakeover (s : State) : Host.Outcome State Fault Refusal :=
  onDev s fun d =>
    if mayTake d && d.ha.sync == .inSync && expired d d.ha.seenAt ((leaseNow d + 2) * ms) then
      takeLease d 1 (nextEpoch d.ha.seen)
    else d

/-- Something was seen since the package's mailboxes were ready (R643). -/
def sinceReady (d : Dev) (t : Option Nat) : Bool := t.any fun t => decide (d.ha.readyAt ≤ t)

/-- FORMATION_TAKEOVER (R643). -/
def execFormationTakeover (s : State) : Host.Outcome State Fault Refusal :=
  onDev s fun d =>
    if mayTake d && d.readyOnce && d.ha.preferred && !sinceReady d d.ha.activeAt
        && (d.ha.sawAnnounce || !sinceReady d d.ha.frameAt)
        && expired d d.ha.readyAt (2 * (leaseNow d + 2) * ms) then
      takeLease d 0 (nextEpoch d.ha.seen)
    else d

/-- A shell port has been UP for a time, with a ROLE of its shell within it (R644). -/
def shellHeard (d : Dev) (len : Nat) : Bool :=
  (spindlePorts d).any fun p =>
    let q := portOf d p
    !isPeerPort d p && expired d q.upAt len && q.farRole == 2 && q.farRoleAt.any fun t => !expired d t len

/-- SOLO_RESUMPTION (R644). -/
def execSoloResumption (s : State) : Host.Outcome State Fault Refusal :=
  onDev s fun d =>
    let len := 2 * (d.ha.inForce + 2) * ms
    if mayTake d && d.ha.soloOk && !d.ha.newer && mayRaise d d.ha.ansAt len && mayRaise d d.ha.peerAt len && shellHeard d len then
      takeLease d 4 (nextEpoch d.ha.seen)
    else d

/- Staleness and resynchronisation (R649 to R653). -/

/-- Time since the send of the oldest entry that the standby has not reported applied; 0 with none (R649). An entry that
still waits for the peer link has not been sent. -/
def lagOf (d : Dev) : Nat := match d.ha.buffer.filter fun e => !d.ha.q6.any fun w => w.1 == e.1 with
  | [] => 0
  | e :: _ => d.now - e.2

/-- JOURNAL_LAG_STALE: the lag reaches 10 ms (R649). -/
def execJournalLagStale (s : State) : Host.Outcome State Fault Refusal :=
  onDev s fun d => if isHolder d && journaling d && decide (lagOf d ≥ 10 * ms) then markStale d 2 else d

/-- A holder is reachable on the peer link. -/
def holderNear (d : Dev) : Bool := peerUp d && d.ha.peerHolds

/-- The SCHED_ADD commands that wait for actions that are about to go complete as they would have done otherwise, with
the lateness of the present tick (R526, R560, R567). -/
def endActionWaits (d : Dev) : Dev :=
  let isAction := fun w : Wait => match w with
    | .action _ => true
    | _ => false
  releasePends d isAction fun p => { p with
    status := stLateExecuted
    result := match p.wait with
      | some (.action id) => leBytes 4 id ++ leBytes 4 (match d.actions.find? fun a => a.id == id with
        | some a => latenessOf (domainNow d a.domain) a
        | none => 0)
      | _ => p.result }

/-- A STALE standby starts a resynchronisation: the snapshot replaces its learned entries and pending actions, and its
next frame asks the holder for the stream (R652); tenants whose entries went show it (R188). -/
def startResync (d : Dev) : Dev :=
  withLease d fun d =>
    let d := settleOver (onDies d (aliveDies d) fun x => { x with mac := x.mac.filter fun e => e.2.static })
    sendReceipt { endActionWaits d with
      actions := []
      ha := { d.ha with
        sync := .resyncing
        based := false
        acked := false
        lastSnap := false
        touched := []
        undo := [] } }

/-- RESYNC_AUTO_START (R652). -/
def execResyncAutoStart (s : State) : Host.Outcome State Fault Refusal :=
  onDev s fun d => if isStandby d && d.ha.auto && d.ha.sync == .stale && holderNear d then startResync d else d

/-- RESYNC_COMPLETE: the last snapshot record has been applied, and entries are applied as they arrive (R653). -/
def execResyncComplete (s : State) : Host.Outcome State Fault Refusal :=
  onDev s fun d =>
    if isStandby d && d.ha.sync == .resyncing && d.ha.lastSnap then
      sendReceipt (raiseHaStale { d with ha := { d.ha with
        sync := .inSync
        cause := 0
        inSyncAt := d.now
        touched := [] } })
    else d

/- Handover (R657, R658). -/

/-- HANDOVER_FENCE: the standby has reported every entry applied; the holder journals LEASE and fences (R657). -/
def execHandoverFence (s : State) : Host.Outcome State Fault Refusal :=
  onDev s fun d =>
    if isHolder d && d.ha.handover && d.ha.sync == .inSync && d.ha.buffer.isEmpty then
      fence (journal d (.lease (nextEpoch d.ha.seen) true)) 5 0 true
    else d

/-- FAILBACK_HOLD_DOWN: the standby is the preferred primary and has been IN_SYNC, with the peer link UP, for HOLD_DOWN
(R658). A peer link that goes DOWN makes the standby STALE (R650). -/
def execFailbackHoldDown (s : State) : Host.Outcome State Fault Refusal :=
  onDev s fun d =>
    if isHolder d && !d.ha.preferred && d.ha.peerPref && d.ha.sync == .inSync && peerUp d && d.ha.holdDown != 0
        && expired d d.ha.inSyncAt (d.ha.holdDown * sec) then
      { d with ha := { d.ha with handover := true } }
    else d

/- Commands (R661 to R664). -/

/-- A command refused on an unpaired package (R661). -/
def pairGuard (d : Dev) : Option Nat := if d.ha.paired then none else some stBadArg

/-- HA_CONFIG (R661, R662). -/
def specHaConfig (d : Dev) (p : BitVec 384) : CmdSpec :=
  let lease := pf p 2 2
  { opcode := 0x0901, kind := .l, keepers := [0], guard := pairGuard d,
    checks := [resv p 0 1 0xFE, resB p 1 1, badIf 2 (decide (lease < 8) || decide (lease > 200) || lease % 4 != 0),
      badIf 4 (pf p 4 2 > 3600), resB p 6 2],
    run := fun d => ({ d with ha := { d.ha with
      auto := bitOf (pf p 0 1) 0
      lease := lease
      holdDown := pf p 4 2 } }, {}) }

def execHaConfig (c : Cmd) (s : State) : Host.Outcome State Fault Refusal :=
  onDev s fun d => runCmd (specHaConfig d c.params) c d

/-- µs since the last renewal that the package saw, saturating; 0 when unpaired (R598, LEASE_ELAPSED). -/
def leaseElapsed (d : Dev) : Nat := if d.ha.paired then min (two32 - 1) ((d.now - d.ha.seenAt) / us) else 0

/-- The result area of HA_STATUS (R661). -/
def haStatusBytes (d : Dev) : List Byte :=
  let h := d.ha
  let stable := if h.sync == .inSync then min (two32 - 1) ((d.now - h.inSyncAt) / sec) else 0
  leBytes 1 (roleOf d) ++ leBytes 1 (syncCode h.sync) ++ leBytes 2 (if h.paired then h.epoch else 0)
    ++ leBytes 1 (atBit 0 h.preferred + atBit 1 (peerUp d)
      + atBit 2 (h.pinAt.any fun t => !expired d t (leaseNow d * ms)) + atBit 3 h.fenced)
    ++ leBytes 1 h.cause ++ leBytes 2 (leaseNow d) ++ leBytes 4 (leaseElapsed d)
    ++ leBytes 4 (if h.holder then min (two32 - 1) (lagOf d / us) else 0) ++ leBytes 8 h.seq ++ leBytes 8 h.serial
    ++ leBytes 4 h.peerFw ++ leBytes 4 stable

/-- HA_STATUS. -/
def specHaStatus : CmdSpec :=
  { opcode := 0x0902, kind := .r, wide := true, any := true, keepers := [0], run := fun d => (d, okResult (haStatusBytes d)) }

def execHaStatus (c : Cmd) (s : State) : Host.Outcome State Fault Refusal := onDev s (runCmd specHaStatus c)

/-- HA_HANDOVER (R657, R663). -/
def specHaHandover (d : Dev) : CmdSpec :=
  { opcode := 0x0903, kind := .l, keepers := [0],
    guard := (pairGuard d).orElse fun _ => if d.ha.holder then none else some stNotActive,
    late := if d.ha.sync == .inSync then none else some stStale,
    run := fun d => ({ d with ha := { d.ha with handover := true } }, { wait := some .handover }) }

def execHaHandover (c : Cmd) (s : State) : Host.Outcome State Fault Refusal :=
  onDev s fun d => runCmd (specHaHandover d) c d

/-- HA_RESYNC (R652, R664). -/
def specHaResync (d : Dev) : CmdSpec :=
  { opcode := 0x0904, kind := .l, keepers := [0],
    guard := (pairGuard d).orElse fun _ =>
      if d.ha.holder || (d.ha.sync == .stale && !holderNear d) then some stBadArg else none,
    run := fun d => (if d.ha.sync == .stale then startResync d else d, {}) }

def execHaResync (c : Cmd) (s : State) : Host.Outcome State Fault Refusal :=
  onDev s fun d => runCmd (specHaResync d) c d

end Sys2Proof.Machine
end

