-- ==== Sys2Proof/Machine/Security.lean ====
section
/-! DEFINITION. The security commands (R685 to R695): attestation, the flash and the fuses. They act on the receiving
package alone (R575), and a flash command runs to its end at one instant of the model, so BUSY reads 0. -/

namespace Sys2Proof.Machine

/-- A command that changes the AON domain, the fuses or the flash: started, judged and completed as every Rontis command
is (R553, R555); `act` is its effect and reply. -/
def runAon (sp : CmdSpec) (c : Cmd) (act : State → State × Reply) (s : State) : State :=
  if !canStart s.dev c then s
  else match refusal s.dev c sp with
    | some r => { s with dev := complete (fetchCmd s.dev c) c sp.opcode 0 r }
    | none =>
      let x := act { s with dev := fetchCmd s.dev c }
      { x.1 with dev := complete x.1.dev c sp.opcode 0 x.2 }

/- SEC_ATTEST (R690). -/

/-- SLOTS and FLAGS of the statement. -/
def attestSlots (a : Aon) : Nat := atBit 0 (a.fwRun == 1) + atBit 1 (a.cfgRun == 1)
def attestFlags (a : Aon) (d : Dev) : Nat :=
  atBit 0 a.dbgDisable + atBit 1 a.debugUsed + atBit 2 a.opKey.isSome + atBit 3 (d.run == .recovery) + atBit 4 (a.cfgRun == 2)

/-- The 48 bytes of OP_KEY_HASH (R685, R688). -/
def opKeyBytes (a : Aon) : List Byte := digestBytes (a.opKey.getD 0)

/-- Bytes 0 to 479 of the statement. -/
def attestBody (a : Aon) (d : Dev) (nonce : List Byte) : List Byte :=
  [0x4B, 0x4D, 0x41, 0x54] ++ leBytes 2 1 ++ leBytes 2 (partCode d.part) ++ leBytes 1 (dieCount d.part) ++ leBytes 1 (lostMask d)
    ++ leBytes 1 (attestFlags a d) ++ leBytes 1 (attestSlots a) ++ leBytes 4 a.fwVersion ++ leBytes 4 a.secVersion
    ++ leBytes 4 (if a.cfgRun = 2 then 0 else seqOfCopy a.cfgImage) ++ leBytes 8 a.rollback ++ nonce
    ++ ((List.range 8).flatMap fun n => if hasDie d n then fuseBytes a 1 n 8 else leBytes 8 0)
    ++ (if a.fwRun = 2 then leBytes 48 0 else digestBytes (Config.sha384 a.fwImage))
    ++ (if a.cfgRun = 2 then leBytes 48 0 else digestBytes (Config.sha384 a.cfgImage))
    ++ opKeyBytes a ++ fuseBytes a 4 0 48 ++ leBytes 8 (grainOf d) ++ leBytes 56 0 ++ fuseBytes a 2 0 96

/-- SEC_ATTEST writes the signed statement of 576 bytes. -/
def specSecAttest (via : Nat) (a : Aon) (p : BitVec 384) : CmdSpec :=
  { opcode := 0x0B01, kind := .r, any := true, keepers := [0], checks := [ckAlign 32 64 (pf p 32 8), resB p 40 8],
    run := fun d =>
      let body := attestBody a d (pbytes p 0 32)
      (hostWrite d via .pf0 (pf p 32 8) (body ++ padTo 96 (Config.attestSignature body)), {}) }

def execSecAttest (c : Cmd) (s : State) : Host.Outcome State Fault Refusal :=
  onDev s (runCmd (specSecAttest c.die s.aon c.params) c)

/- The flash commands (R691 to R693). -/

/-- The target slot: an invalid copy, A when both are; else the one with the lower SEQ (R692). -/
def targetSlot (valid seqA seqB : Nat) : Nat :=
  if !bitOf valid 0 then 0 else if !bitOf valid 1 then 1 else if seqB < seqA then 1 else 0

/-- The SEQ of a copy is above that of every valid copy in the flash (R692). -/
def seqAbove (valid seqA seqB seq : Nat) : Bool :=
  (!bitOf valid 0 || decide (seq > seqA)) && (!bitOf valid 1 || decide (seq > seqB))

/-- EV_INTERNAL with a firmware code (R554, R572; log entry 4). -/
def raiseInternal (d : Dev) (opcode : Nat) : Dev :=
  let x := dieOf d 0
  let d := onDie d 0 fun x => { x with intCode := x.intCode + 1 }
  raise d 0 evInternal (leBytes 4 (Config.internalCode x.intCode).toNat ++ leBytes 2 opcode)

/-- Copies of a kind are judged (R691): `fw` tells firmware from configuration. -/
def judgeFlash (a : Aon) (part : Part) (fw : Bool) : Aon :=
  if fw then { a with fwValid := judgeFw a part } else { a with cfgValid := judgeCfg a part }

/-- A checked copy is written to slot `k`, read back and judged; a failed read-back leaves the slot invalid (R692,
R693). -/
def writeFlash (s : State) (fw : Bool) (k opcode : Nat) (l : List Byte) (ok : Bool) : State × Reply :=
  let a := { s.aon with flash := lmod s.aon.flash (if fw then 2 + k else k) fun _ => if ok then l else [] }
  let s := { s with aon := judgeFlash a s.dev.part fw }
  if ok then (s, okResult (leBytes 1 k ++ leBytes 3 0 ++ leBytes 4 (seqOfCopy l)))
  else ({ s with dev := raiseInternal s.dev opcode }, { status := stInternal })

/-- SEC_FW_WRITE: fields and copy. -/
def specSecFwWrite (a : Aon) (d : Dev) (p : BitVec 384) (image : List Byte) : CmdSpec :=
  let n := pf p 4 4
  let l := padTo (min n 524288) image
  let v := judgeFw a d.part
  { opcode := 0x0B02, kind := .l, keepers := [0],
    checks := [resv p 0 1 0xFE, badIf 0 (bitOf (pf p 0 1) 0 && d.run != .recovery), resB p 1 3,
      badIf 4 (decide (n < 228) || decide (n > 524288)), ckAlign 8 64 (pf p 8 8),
      badIf 8 (!fwOk a d.part l || !seqAbove v (seqOfCopy (fwCopy a 0)) (seqOfCopy (fwCopy a 1)) (seqOfCopy l))],
    run := fun d => (d, {}) }

/-- SEC_FW_WRITE. With BOOT in recovery boot, start-up goes on with the copy once the completion is written (R677, R678,
R682). -/
def execSecFwWrite (c : Cmd) (image : List Byte) (write : FwWrite) (s : State) : Host.Outcome State Fault Refusal :=
  let a := s.aon
  let k := targetSlot (judgeFw a s.dev.part) (seqOfCopy (fwCopy a 0)) (seqOfCopy (fwCopy a 1))
  let sp := specSecFwWrite a s.dev c.params image
  let go := canStart s.dev c && (refusal s.dev c sp).isNone && bitOf (pf c.params 0 1) 0 && write.readBackOk
  let s := runAon sp c (fun s => writeFlash s true k 0x0B02 (padTo (pf c.params 4 4) image) write.readBackOk) s
  .next (if go then bootFrom s k write.failedDies write.d0Fails else s)

/-- SEC_CFG_WRITE: fields and copy. -/
def specSecCfgWrite (a : Aon) (d : Dev) (p : BitVec 384) (block : List Byte) : CmdSpec :=
  let l := padTo cfgLen block
  let v := judgeCfg a d.part
  { opcode := 0x0B03, kind := .l, keepers := [0],
    checks := [resB p 0 4, badIf 4 (pf p 4 4 != cfgLen), ckAlign 8 64 (pf p 8 8),
      badIf 8 (!cfgOk a d.part l || !seqAbove v (seqOfCopy (cfgCopy a 0)) (seqOfCopy (cfgCopy a 1)) (seqOfCopy l))],
    run := fun d => (d, {}) }

/-- SEC_CFG_WRITE. -/
def execSecCfgWrite (c : Cmd) (block : List Byte) (readBackOk : Bool) (s : State) : Host.Outcome State Fault Refusal :=
  let a := s.aon
  let k := targetSlot (judgeCfg a s.dev.part) (seqOfCopy (cfgCopy a 0)) (seqOfCopy (cfgCopy a 1))
  .next (runAon (specSecCfgWrite a s.dev c.params block) c
    (fun s => writeFlash s false k 0x0B03 (padTo cfgLen block) readBackOk) s)

/-- SEC_FLASH_STATUS (R691). -/
def specSecFlashStatus (a : Aon) : CmdSpec :=
  { opcode := 0x0B04, kind := .r, wide := true, any := true, keepers := [0],
    run := fun d => (d, okResult (leBytes 1 a.fwRun ++ leBytes 1 a.cfgRun ++ leBytes 1 a.fwValid ++ leBytes 1 a.cfgValid
      ++ leBytes 4 (seqOfCopy (fwCopy a 0)) ++ leBytes 4 (seqOfCopy (fwCopy a 1)) ++ leBytes 4 (seqOfCopy (cfgCopy a 0))
      ++ leBytes 4 (seqOfCopy (cfgCopy a 1)) ++ leBytes 1 0)) }

def execSecFlashStatus (c : Cmd) (s : State) : Host.Outcome State Fault Refusal :=
  onDev s (runCmd (specSecFlashStatus s.aon) c)

/- Fuses (R685, R688, R694, R695). -/

/-- Bytes of a readable fuse on one die (R685). -/
def fuseSize (id : Nat) : Nat :=
  [4, 8, 96, 1024, 48, 48, 8, 1, 16 * 5 * 96, 152 * 96, 2 * 64, 8 * 6].getD id 0

/-- Fuses that each die holds. -/
def fusePerDie (id : Nat) : Bool := [1, 8, 9, 10, 11].contains id

/-- The content of a fuse. -/
def fuseContent (a : Aon) (id die : Nat) : List Byte :=
  if id = 5 then opKeyBytes a
  else if id = 6 then leBytes 8 a.rollback
  else if id = 7 then leBytes 1 (atBit 0 a.dbgDisable)
  else fuseBytes a id (if fusePerDie id then die else 0) (fuseSize id)

/-- SEC_FUSE_READ (R691, R694). -/
def specSecFuseRead (via : Nat) (a : Aon) (d : Dev) (p : BitVec 384) : CmdSpec :=
  let id := pf p 0 1
  let n := pf p 1 1
  let len := pf p 4 4
  let off := pf p 8 4
  { opcode := 0x0B05, kind := .r, any := true, keepers := [0],
    checks := [badIf 0 (id > 11), ⟨1, fusePerDie id && decide (n < 8) && !alive d n, decide (n > 7)⟩, resB p 2 2,
      badIf 4 (len == 0 || decide (len > 65536)), badIf 8 (decide (id ≤ 11) && decide (off + len > fuseSize id)), resB p 12 4,
      ckAlign 16 8 (pf p 16 8)],
    run := fun d => (hostWrite d via .pf0 (pf p 16 8) (slice (fuseContent a id n) off len), {}) }

def execSecFuseRead (c : Cmd) (s : State) : Host.Outcome State Fault Refusal :=
  onDev s fun d => runCmd (specSecFuseRead c.die s.aon d c.params) c d

/-- FUSE_PROG_EN.EN: set, and not yet 10 s ago (R595). -/
def fuseEnabled (a : Aon) (d : Dev) : Bool := a.fuseEn.any fun t => !expired d t (10 * sec)

/-- SEC_FUSE_PROGRAM: checks, then LOCKED or GUARD_FAIL (R553, R595, R695). -/
def specSecFuseProgram (a : Aon) (d : Dev) (p : BitVec 384) (digest : List Byte) : CmdSpec :=
  let id := pf p 0 1
  let v := pf p 8 8
  { opcode := 0x0B06, kind := .l, keepers := [0],
    checks := [badIf 0 (decide (id < 5) || decide (id > 7) || (id == 5 && a.opKey.isSome)), resB p 1 7,
      badIf 8 ((id == 5 && v != 0) || (id == 7 && v != 1)
        || (id == 6 && (decide (v < a.rollback) || decide (v > 64) || decide (v > a.secVersion)))),
      badIf 16 (if id = 5 then pf p 16 8 % 8 != 0 || ofLe (padTo 48 digest) == 0 else pf p 16 8 != 0)],
    guard := if a.lock then some stLocked else if fuseEnabled a d then none else some stGuardFail,
    run := fun d => (d, {}) }

/-- What SEC_FUSE_PROGRAM burns: OP_KEY_HASH with its marker, the count of ROLLBACK, or DBG_DISABLE (R685, R688,
R689). -/
def burnFuse (a : Aon) (id v : Nat) (digest : List Byte) : Aon :=
  if id = 5 then { a with opKey := some (BitVec.ofNat 384 (ofBe (padTo 48 digest))) }
  else if id = 6 then { a with rollback := v }
  else { a with dbgDisable := true }

/-- SEC_FUSE_PROGRAM. FUSE_PROG_EN clears when it completes (R595). -/
def execSecFuseProgram (c : Cmd) (digest : List Byte) (s : State) : Host.Outcome State Fault Refusal :=
  let ran := canStart s.dev c
  let s := runAon (specSecFuseProgram s.aon s.dev c.params digest) c
    (fun s => ({ s with aon := burnFuse s.aon (pf c.params 0 1) (pf c.params 8 8) digest }, {})) s
  .next (if ran then { s with aon := { s.aon with fuseEn := none } } else s)

end Sys2Proof.Machine
end

