-- ==== Sys2Proof/Machine/Dispatch.lean ====
section
/-! DEFINITION. The meaning of every command, one arm per constructor of Instr. -/

namespace Sys2Proof.Machine

def exec (i : Instr) (s : State) : Host.Outcome State Fault Refusal :=
  match i with
  | .sysNop c => Sys2Proof.Machine.execSysNop c s
  | .sysInfo c => Sys2Proof.Machine.execSysInfo c s
  | .sysEventMask c => Sys2Proof.Machine.execSysEventMask c s
  | .sysDieStatus c => Sys2Proof.Machine.execSysDieStatus c s
  | .unknownCommand opcode c => Sys2Proof.Machine.execUnknownCommand opcode c s
  | .portConfig c => Sys2Proof.Machine.execPortConfig c s
  | .portStatus c => Sys2Proof.Machine.execPortStatus c s
  | .portRetrain c => Sys2Proof.Machine.execPortRetrain c s
  | .portTest c => Sys2Proof.Machine.execPortTest c s
  | .portEyeScan c eye held => Sys2Proof.Machine.execPortEyeScan c eye held s
  | .portRelease c => Sys2Proof.Machine.execPortRelease c s
  | .tenVeSet c => Sys2Proof.Machine.execTenVeSet c s
  | .tenVeGet c => Sys2Proof.Machine.execTenVeGet c s
  | .tenSet c => Sys2Proof.Machine.execTenSet c s
  | .tenGet c => Sys2Proof.Machine.execTenGet c s
  | .tenStatus c => Sys2Proof.Machine.execTenStatus c s
  | .tblMacAdd c => Sys2Proof.Machine.execTblMacAdd c s
  | .tblMacDel c => Sys2Proof.Machine.execTblMacDel c s
  | .tblMacFlush c => Sys2Proof.Machine.execTblMacFlush c s
  | .tblMacGet c => Sys2Proof.Machine.execTblMacGet c s
  | .tblMacConfig c => Sys2Proof.Machine.execTblMacConfig c s
  | .tblBdSet c => Sys2Proof.Machine.execTblBdSet c s
  | .tblRouteSet c => Sys2Proof.Machine.execTblRouteSet c s
  | .tblRouteGet c => Sys2Proof.Machine.execTblRouteGet c s
  | .tblErrModeSet c => Sys2Proof.Machine.execTblErrModeSet c s
  | .tblStatus c => Sys2Proof.Machine.execTblStatus c s
  | .tblMcgSet c list => Sys2Proof.Machine.execTblMcgSet c list s
  | .tblMcgGet c => Sys2Proof.Machine.execTblMcgGet c s
  | .clsRuleSet c record => Sys2Proof.Machine.execClsRuleSet c record s
  | .clsRuleGet c => Sys2Proof.Machine.execClsRuleGet c s
  | .clsPortSet c => Sys2Proof.Machine.execClsPortSet c s
  | .clsParserSet c => Sys2Proof.Machine.execClsParserSet c s
  | .clsUdfSet c => Sys2Proof.Machine.execClsUdfSet c s
  | .clsPuntRingSet c => Sys2Proof.Machine.execClsPuntRingSet c s
  | .polSet c => Sys2Proof.Machine.execPolSet c s
  | .polGet c => Sys2Proof.Machine.execPolGet c s
  | .mirSet c => Sys2Proof.Machine.execMirSet c s
  | .mirTapSet c => Sys2Proof.Machine.execMirTapSet c s
  | .cntRead c err => Sys2Proof.Machine.execCntRead c err s
  | .cntClear c => Sys2Proof.Machine.execCntClear c s
  | .cntSnapSet c => Sys2Proof.Machine.execCntSnapSet c s
  | .qosBufSet c => Sys2Proof.Machine.execQosBufSet c s
  | .qosBufProfileSet c => Sys2Proof.Machine.execQosBufProfileSet c s
  | .qosVoqBind c => Sys2Proof.Machine.execQosVoqBind c s
  | .qosTenBufSet c => Sys2Proof.Machine.execQosTenBufSet c s
  | .qosBufStatus c => Sys2Proof.Machine.execQosBufStatus c s
  | .qosVoqStatus c => Sys2Proof.Machine.execQosVoqStatus c s
  | .qosPathSet c table => Sys2Proof.Machine.execQosPathSet c table s
  | .qosPathGet c => Sys2Proof.Machine.execQosPathGet c s
  | .qosCtSet c => Sys2Proof.Machine.execQosCtSet c s
  | .qosFabricStatus c => Sys2Proof.Machine.execQosFabricStatus c s
  | .qosWredSet c => Sys2Proof.Machine.execQosWredSet c s
  | .qosWredBind c => Sys2Proof.Machine.execQosWredBind c s
  | .qosFcSet c => Sys2Proof.Machine.execQosFcSet c s
  | .qosFcStatus c => Sys2Proof.Machine.execQosFcStatus c s
  | .qosMcSet c => Sys2Proof.Machine.execQosMcSet c s
  | .qosSchedPortSet c => Sys2Proof.Machine.execQosSchedPortSet c s
  | .qosSchedGroupSet c => Sys2Proof.Machine.execQosSchedGroupSet c s
  | .qosSchedMapSet c => Sys2Proof.Machine.execQosSchedMapSet c s
  | .pwrCapSet c => Sys2Proof.Machine.execPwrCapSet c s
  | .pwrPolicySet c => Sys2Proof.Machine.execPwrPolicySet c s
  | .pwrStatus c => Sys2Proof.Machine.execPwrStatus c s
  | .pwrAcctGet c => Sys2Proof.Machine.execPwrAcctGet c s
  | .pwrModelGet c => Sys2Proof.Machine.execPwrModelGet c s
  | .timeGet c => Sys2Proof.Machine.execTimeGet c s
  | .timeAdj c => Sys2Proof.Machine.execTimeAdj c s
  | .timePortSet c => Sys2Proof.Machine.execTimePortSet c s
  | .timePpsSet c => Sys2Proof.Machine.execTimePpsSet c s
  | .timePpsGet c => Sys2Proof.Machine.execTimePpsGet c s
  | .timeTxtsRead c => Sys2Proof.Machine.execTimeTxtsRead c s
  | .schedAdd c embed record => Sys2Proof.Machine.execSchedAdd c embed record s
  | .schedDel c => Sys2Proof.Machine.execSchedDel c s
  | .schedGet c => Sys2Proof.Machine.execSchedGet c s
  | .haConfig c => Sys2Proof.Machine.execHaConfig c s
  | .haStatus c => Sys2Proof.Machine.execHaStatus c s
  | .haHandover c => Sys2Proof.Machine.execHaHandover c s
  | .haResync c => Sys2Proof.Machine.execHaResync c s
  | .memScrubSet c => Sys2Proof.Machine.execMemScrubSet c s
  | .memLogRead c => Sys2Proof.Machine.execMemLogRead c s
  | .memRetire c => Sys2Proof.Machine.execMemRetire c s
  | .memStatus c => Sys2Proof.Machine.execMemStatus c s
  | .memChannelRestart c => Sys2Proof.Machine.execMemChannelRestart c s
  | .secAttest c => Sys2Proof.Machine.execSecAttest c s
  | .secFwWrite c image write => Sys2Proof.Machine.execSecFwWrite c image write s
  | .secCfgWrite c block readBackOk => Sys2Proof.Machine.execSecCfgWrite c block readBackOk s
  | .secFlashStatus c => Sys2Proof.Machine.execSecFlashStatus c s
  | .secFuseRead c => Sys2Proof.Machine.execSecFuseRead c s
  | .secFuseProgram c digest => Sys2Proof.Machine.execSecFuseProgram c digest s
  | .cmdDbWrite die ring value => Sys2Proof.Machine.execCmdDbWrite die ring value s
  | .cplDbWrite die ring value => Sys2Proof.Machine.execCplDbWrite die ring value s
  | .evtDbWrite die value => Sys2Proof.Machine.execEvtDbWrite die value s
  | .mbCtrlRestart die value => Sys2Proof.Machine.execMbCtrlRestart die value s
  | .indDataWrite die value => Sys2Proof.Machine.execIndDataWrite die value s
  | .indDataRead die => Sys2Proof.Machine.execIndDataRead die s
  | .ringEnable die => Sys2Proof.Machine.execRingEnable die s
  | .ringDisable die => Sys2Proof.Machine.execRingDisable die s
  | .evtRingEnable die => Sys2Proof.Machine.execEvtRingEnable die s
  | .evtRingDisable die => Sys2Proof.Machine.execEvtRingDisable die s
  | .indirectWriteEffect die => Sys2Proof.Machine.execIndirectWriteEffect die s
  | .registerWrite die fn offset value byteEnables => Sys2Proof.Machine.execRegisterWrite die fn offset value byteEnables s
  | .lockWrite die value => Sys2Proof.Machine.execLockWrite die value s
  | .guardAWrite value => Sys2Proof.Machine.execGuardAWrite value s
  | .powerCapOverride value => Sys2Proof.Machine.execPowerCapOverride value s
  | .diePark value => Sys2Proof.Machine.execDiePark value s
  | .dieUnpark value => Sys2Proof.Machine.execDieUnpark value s
  | .leaseForceActive value => Sys2Proof.Machine.execLeaseForceActive value s
  | .leaseForceStandby value => Sys2Proof.Machine.execLeaseForceStandby value s
  | .fuseProgEnable value => Sys2Proof.Machine.execFuseProgEnable value s
  | .guardedDirectWrite offset value => Sys2Proof.Machine.execGuardedDirectWrite offset value s
  | .guardWindowExpiry => Sys2Proof.Machine.execGuardWindowExpiry s
  | .fuseProgEnTimeout => Sys2Proof.Machine.execFuseProgEnTimeout s
  | .poolTailWrite die ring pool value => Sys2Proof.Machine.execPoolTailWrite die ring pool value s
  | .cplConsWrite die ring value => Sys2Proof.Machine.execCplConsWrite die ring value s
  | .msixVectorUnmask die fn vec => Sys2Proof.Machine.execMsixVectorUnmask die fn vec s
  | .msixCoalesceTimeout die fn vec => Sys2Proof.Machine.execMsixCoalesceTimeout die fn vec s
  | .pf0Flr die => Sys2Proof.Machine.execPf0Flr die s
  | .pf1VfFlr die fn => Sys2Proof.Machine.execPf1VfFlr die fn s
  | .pwrOkRise failedDies d0Fails => Sys2Proof.Machine.execPwrOkRise failedDies d0Fails s
  | .pwrOkFall => Sys2Proof.Machine.execPwrOkFall s
  | .railUndervoltage => Sys2Proof.Machine.execRailUndervoltage s
  | .refclkLoss => Sys2Proof.Machine.execRefclkLoss s
  | .pcieRefclkLoss die => Sys2Proof.Machine.execPcieRefclkLoss die s
  | .perstNAssert die => Sys2Proof.Machine.execPerstNAssert die s
  | .perstNRelease die links => Sys2Proof.Machine.execPerstNRelease die links s
  | .dieReady die => Sys2Proof.Machine.execDieReady die s
  | .faultInAssert => Sys2Proof.Machine.execFaultInAssert s
  | .thermalStopExit => Sys2Proof.Machine.execThermalStopExit s
  | .queenInEdge => Sys2Proof.Machine.execQueenInEdge s
  | .ppsInEdge stamp confirmed => Sys2Proof.Machine.execPpsInEdge stamp confirmed s
  | .ppsOutRise => Sys2Proof.Machine.execPpsOutRise s
  | .ppsOutFall => Sys2Proof.Machine.execPpsOutFall s
  | .debugMailboxAccess => Sys2Proof.Machine.execDebugMailboxAccess s
  | .signalDetectChange lane level => Sys2Proof.Machine.execSignalDetectChange lane level s
  | .signalDetectValid lane => Sys2Proof.Machine.execSignalDetectValid lane s
  | .helloTxDue port => Sys2Proof.Machine.execHelloTxDue port s
  | .seekLockRestart lane => Sys2Proof.Machine.execSeekLockRestart lane s
  | .rxHello lane content crcOk => Sys2Proof.Machine.execRxHello lane content crcOk s
  | .pllLock port => Sys2Proof.Machine.execPllLock port s
  | .laneLock port skew => Sys2Proof.Machine.execLaneLock port skew s
  | .coefRequestApplied lane atLimit => Sys2Proof.Machine.execCoefRequestApplied lane atLimit s
  | .eqTrainingDone port => Sys2Proof.Machine.execEqTrainingDone port s
  | .qualificationWindowEnd port => Sys2Proof.Machine.execQualificationWindowEnd port s
  | .phaseBudgetExpiry port failLane => Sys2Proof.Machine.execPhaseBudgetExpiry port failLane s
  | .attemptLimitExpiry port failLane => Sys2Proof.Machine.execAttemptLimitExpiry port failLane s
  | .helloSilenceExpiry lane => Sys2Proof.Machine.execHelloSilenceExpiry lane s
  | .restartWaitExpiry port => Sys2Proof.Machine.execRestartWaitExpiry port s
  | .rxCodeword lane result => Sys2Proof.Machine.execRxCodeword lane result s
  | .rxIdleBlock port => Sys2Proof.Machine.execRxIdleBlock port s
  | .rxStartBlock port header => Sys2Proof.Machine.execRxStartBlock port header s
  | .rxDataBlock port data => Sys2Proof.Machine.execRxDataBlock port data s
  | .rxTerminateBlock port k data => Sys2Proof.Machine.execRxTerminateBlock port k data s
  | .rxStompBlock port reason => Sys2Proof.Machine.execRxStompBlock port reason s
  | .rxBadBlock port lane badHeader inFec => Sys2Proof.Machine.execRxBadBlock port lane badHeader inFec s
  | .quarantineHoldoffEnd port => Sys2Proof.Machine.execQuarantineHoldoffEnd port s
  | .smokerHistoryReset port => Sys2Proof.Machine.execSmokerHistoryReset port s
  | .rxRole port content => Sys2Proof.Machine.execRxRole port content s
  | .rxPauseOs port content => Sys2Proof.Machine.execRxPauseOs port content s
  | .rxVeXoff port content => Sys2Proof.Machine.execRxVeXoff port content s
  | .rxOsUnknown port => Sys2Proof.Machine.execRxOsUnknown port s
  | .rxOsBad port => Sys2Proof.Machine.execRxOsBad port s
  | .roleKeepaliveDue port => Sys2Proof.Machine.execRoleKeepaliveDue port s
  | .roleRepeatDue port => Sys2Proof.Machine.execRoleRepeatDue port s
  | .l1IdleEntry port => Sys2Proof.Machine.execL1IdleEntry port s
  | .l2DelayExpiry port => Sys2Proof.Machine.execL2DelayExpiry port s
  | .l2AnswerTimeout port => Sys2Proof.Machine.execL2AnswerTimeout port s
  | .l2ExitCheckEnd port pass => Sys2Proof.Machine.execL2ExitCheckEnd port pass s
  | .l2ExitLimit port => Sys2Proof.Machine.execL2ExitLimit port s
  | .ethAnExchange port partner => Sys2Proof.Machine.execEthAnExchange port partner s
  | .anFailRepeat port => Sys2Proof.Machine.execAnFailRepeat port s
  | .ethLinkStatusChange port status => Sys2Proof.Machine.execEthLinkStatusChange port status s
  | .ethRxFrame port bytes fin => Sys2Proof.Machine.execEthRxFrame port bytes fin s
  | .ethRxMacControl port bytes => Sys2Proof.Machine.execEthRxMacControl port bytes s
  | .headerPipelineTurn die turn => Sys2Proof.Machine.execHeaderPipelineTurn die turn s
  | .lpmRecirculation die turn => Sys2Proof.Machine.execLpmRecirculation die turn s
  | .learnEvent die => Sys2Proof.Machine.execLearnEvent die s
  | .learnEventTimeout die => Sys2Proof.Machine.execLearnEventTimeout die s
  | .agingVisit die index => Sys2Proof.Machine.execAgingVisit die index s
  | .tableParityRepair die table index => Sys2Proof.Machine.execTableParityRepair die table index s
  | .shadowCompareBlock die table index chipBad imageBad => Sys2Proof.Machine.execShadowCompareBlock die table index chipBad imageBad s
  | .puntDelivery die entry => Sys2Proof.Machine.execPuntDelivery die entry s
  | .keeperForward die => Sys2Proof.Machine.execKeeperForward die s
  | .tapDelivery die entry => Sys2Proof.Machine.execTapDelivery die entry s
  | .allocatorClock die acc => Sys2Proof.Machine.execAllocatorClock die acc s
  | .combAudit die => Sys2Proof.Machine.execCombAudit die s
  | .pageWriteStart die => Sys2Proof.Machine.execPageWriteStart die s
  | .pageWriteDone die => Sys2Proof.Machine.execPageWriteDone die s
  | .readbackStart die => Sys2Proof.Machine.execReadbackStart die s
  | .readbackDone die word err => Sys2Proof.Machine.execReadbackDone die word err s
  | .creditGrant port => Sys2Proof.Machine.execCreditGrant port s
  | .voqIdleReturn q => Sys2Proof.Machine.execVoqIdleReturn q s
  | .voqSend q acc => Sys2Proof.Machine.execVoqSend q acc s
  | .flitRx die channel flit busFails => Sys2Proof.Machine.execFlitRx die channel flit busFails s
  | .bridgeRetrainDone die channel => Sys2Proof.Machine.execBridgeRetrainDone die channel s
  | .bridgeChannelFail die channel => Sys2Proof.Machine.execBridgeChannelFail die channel s
  | .relayFlitSend die channel => Sys2Proof.Machine.execRelayFlitSend die channel s
  | .pathDrainComplete src dst => Sys2Proof.Machine.execPathDrainComplete src dst s
  | .heartbeatSilence die => Sys2Proof.Machine.execHeartbeatSilence die s
  | .heartbeatLossStop die => Sys2Proof.Machine.execHeartbeatLossStop die s
  | .schedulerSelect port => Sys2Proof.Machine.execSchedulerSelect port s
  | .frameTxEnd port => Sys2Proof.Machine.execFrameTxEnd port s
  | .energyHoldCheck port => Sys2Proof.Machine.execEnergyHoldCheck port s
  | .mcCopyJudge die => Sys2Proof.Machine.execMcCopyJudge die s
  | .mcResidueTick die => Sys2Proof.Machine.execMcResidueTick die s
  | .wredAvgUpdate die => Sys2Proof.Machine.execWredAvgUpdate die s
  | .pauseRefreshDue port => Sys2Proof.Machine.execPauseRefreshDue port s
  | .veXoffRefreshDue port ve => Sys2Proof.Machine.execVeXoffRefreshDue port ve s
  | .pauseHoldExpiry port tc => Sys2Proof.Machine.execPauseHoldExpiry port tc s
  | .veXoffHoldExpiry port ve => Sys2Proof.Machine.execVeXoffHoldExpiry port ve s
  | .pauseWatchdogExpiry port tc ve => Sys2Proof.Machine.execPauseWatchdogExpiry port tc ve s
  | .pauseIgnorePeriodEnd port tc ve => Sys2Proof.Machine.execPauseIgnorePeriodEnd port tc ve s
  | .energyWindowBoundary metered aon => Sys2Proof.Machine.execEnergyWindowBoundary metered aon s
  | .powerSensorSample die rails temps => Sys2Proof.Machine.execPowerSensorSample die rails temps s
  | .forecastUpdate => Sys2Proof.Machine.execForecastUpdate s
  | .sliceRetentionEntry die slice => Sys2Proof.Machine.execSliceRetentionEntry die slice s
  | .sliceOffEntry die slice => Sys2Proof.Machine.execSliceOffEntry die slice s
  | .bankCloseStart die => Sys2Proof.Machine.execBankCloseStart die s
  | .bankOff die => Sys2Proof.Machine.execBankOff die s
  | .bankWake die => Sys2Proof.Machine.execBankWake die s
  | .schedActionRun => Sys2Proof.Machine.execSchedActionRun s
  | .boundaryClockMessage domain update send => Sys2Proof.Machine.execBoundaryClockMessage domain update send s
  | .snapshotDue die => Sys2Proof.Machine.execSnapshotDue die s
  | .veSpoofEventDue port => Sys2Proof.Machine.execVeSpoofEventDue port s
  | .overQuotaEventDue die tenant => Sys2Proof.Machine.execOverQuotaEventDue die tenant s
  | .keeperTrap die cause => Sys2Proof.Machine.execKeeperTrap die cause s
  | .firmwareWatchdogExpiry die => Sys2Proof.Machine.execFirmwareWatchdogExpiry die s
  | .keeperRestartDone r => Sys2Proof.Machine.execKeeperRestartDone r s
  | .mirrorRebuildDone => Sys2Proof.Machine.execMirrorRebuildDone s
  | .foragerLine die memory errs badImages => Sys2Proof.Machine.execForagerLine die memory errs badImages s
  | .freeListRebuild die => Sys2Proof.Machine.execFreeListRebuild die s
  | .creditRecount port => Sys2Proof.Machine.execCreditRecount port s
  | .dmaReadError die channel cause => Sys2Proof.Machine.execDmaReadError die channel cause s
  | .leaseRenewalDue => Sys2Proof.Machine.execLeaseRenewalDue s
  | .announceDue => Sys2Proof.Machine.execAnnounceDue s
  | .peerRxRenew frame => Sys2Proof.Machine.execPeerRxRenew frame s
  | .peerRxAnswer frame => Sys2Proof.Machine.execPeerRxAnswer frame s
  | .peerRxAnnounce frame => Sys2Proof.Machine.execPeerRxAnnounce frame s
  | .peerRxReceipt frame => Sys2Proof.Machine.execPeerRxReceipt frame s
  | .peerRxJournal frame bodies => Sys2Proof.Machine.execPeerRxJournal frame bodies s
  | .peerRxSnapshot frame read => Sys2Proof.Machine.execPeerRxSnapshot frame read s
  | .answerMiss => Sys2Proof.Machine.execAnswerMiss s
  | .leaseExpiryFence => Sys2Proof.Machine.execLeaseExpiryFence s
  | .leaseTakeover => Sys2Proof.Machine.execLeaseTakeover s
  | .formationTakeover => Sys2Proof.Machine.execFormationTakeover s
  | .soloResumption => Sys2Proof.Machine.execSoloResumption s
  | .journalLagStale => Sys2Proof.Machine.execJournalLagStale s
  | .resyncAutoStart => Sys2Proof.Machine.execResyncAutoStart s
  | .resyncComplete => Sys2Proof.Machine.execResyncComplete s
  | .handoverFence => Sys2Proof.Machine.execHandoverFence s
  | .failbackHoldDown => Sys2Proof.Machine.execFailbackHoldDown s
  | .queenOutFall => Sys2Proof.Machine.execQueenOutFall s
  | .receiptDue => Sys2Proof.Machine.execReceiptDue s
  | .bridgeChannelLockLoss die channel => Sys2Proof.Machine.execBridgeChannelLockLoss die channel s
  | .guardBFailedWrite value => Sys2Proof.Machine.execGuardBFailedWrite value s
  | .prbsCheckerLock lane bits => Sys2Proof.Machine.execPrbsCheckerLock lane bits s
  | .faultInDeassert => Sys2Proof.Machine.execFaultInDeassert s
  | .queenInFall => Sys2Proof.Machine.execQueenInFall s
  | .ppsInFall => Sys2Proof.Machine.execPpsInFall s

end Sys2Proof.Machine
end

