-- ==== Sys2Proof/Machine/Reads.lean ====
section
/-! DEFINITION. What a direct register reads (R12, R578, R580, R587, R592, R598). A read of a register other than
IND_DATA is no command; these functions say what it returns. It changes no state, but that a read of IND_CTRL comes after
every earlier indirect write (R585): `afterRead` is the state after a read. The read of IND_DATA is the command
IND_DATA_READ. -/

namespace Sys2Proof.Machine

/-- A word of the MSI-X table (R580, R592). -/
def msixRead (x : Die) (fn : Fn) (off : Nat) : Nat :=
  let w := vecOf x fn (off / 16)
  match off % 16 with
  | 0 => w.addr % two32
  | 4 => w.addr / two32
  | 8 => w.data
  | _ => atBit 0 w.masked

/-- A word of the pending bit array (R580, R589, R592). -/
def pbaRead (x : Die) (fn : Fn) (off : Nat) : Nat :=
  maskOf 32 fun k => (vecOf x fn (8 * off + k)).due && (vecOf x fn (8 * off + k)).masked

def coalRead (x : Die) (fn : Fn) (k : Nat) : Nat := (vecOf x fn k).time * two16 + (vecOf x fn k).count

/-- DIE_STATE (R580, R581). -/
def dieStateRead (x : Die) : Nat :=
  let keeper := match x.keeper with
    | .booting => 0
    | .running => 1
    | .restarting => 2
    | .recovery => 3
  atBit 7 x.mbHalt + atBit 6 x.parked + 16 * keeper + atBit 0 x.ready

/-- RING_FLAGS (R580). -/
def ringFlagsRead (x : Die) : Nat :=
  atBit 16 x.evt.enable + 256 * maskOf 8 (fun k => (x.rings.getD k {}).enable)
    + maskOf 8 fun k => (x.rings.getD k {}).full

/-- GUARD_SEL, GUARD_STAT and the guarded registers, which d0 holds (R580, R595, R596). -/
def guardRead (s : State) (off : Nat) : Nat :=
  let a := lapse s
  if off = 0x304 then a.sel
  else if off = 0x310 then a.fails * two16 + atBit 3 a.lockedF + atBit 2 a.failF + atBit 1 a.doneF + atBit 0 a.armed.isSome
  else if off = 0x320 then atBit 0 a.override
  else if off = 0x324 then a.park.toNat
  else if off = 0x328 then a.force
  else if off = 0x32C then atBit 0 (fuseEnabled a s.dev)
  else 0

/-- The power, thermal and lease registers, which read 0 until the first complete energy window (R598). -/
def statusRead (d : Dev) (n off : Nat) : Nat :=
  let x := dieOf d n
  if d.pkg.window = 0 then 0
  else if off = 0x400 then capEffOf d / 20 * two16 + 256 * d.pkg.k + atBit 2 (parkAllowed d n) + atBit 1 d.pkg.override
    + atBit 0 d.pkg.engaged
  else if off = 0x404 then d.pkg.pMean
  else if off = 0x408 then x.pMean
  else if off = 0x40C then unsignedOf 16 (d.pkg.fcast / 10) * two16 + unsignedOf 16 x.tMax
  else if off = 0x500 then leaseStat d + atBit 7 d.queen.level
  else if off = 0x504 then leaseElapsed d
  else 0

/-- IND_CTRL and the device that a read of it leaves: the read returns after every earlier indirect write has taken
effect (R585). -/
def readIndCtrl (d : Dev) (n : Nat) : Nat × Dev :=
  let d := indFlush d n
  (atBit 2 (dieOf d n).indErr + atBit 0 (dieOf d n).autoInc, d)

/-- PF0 BAR0 (R580). A write-only register reads 0, its reset value. -/
def pf0Read (s : State) (n off : Nat) : Nat :=
  let d := s.dev
  let x := dieOf d n
  if off = 0x00 then partCode d.part * two16 + bitsOf (ofLe (fuseBytes s.aon 0 0 4)) 8 8 * 256 + n
  else if off = 0x04 then ofLe (fuseBytes s.aon 1 n 8) % two32
  else if off = 0x08 then ofLe (fuseBytes s.aon 1 n 8) / two32
  else if off = 0x0C then (if x.ready then d.fwVersion else 0)
  else if off = 0x10 then dieStateRead x
  else if 0x180 ≤ off ∧ off < 0x1A0 then
    let r := x.rings.getD ((off - 0x180) / 4) {}
    r.fetch * two16 + r.prod
  else if off = 0x1A0 then x.evt.cons * two16 + x.evt.write
  else if off = 0x1A4 then ringFlagsRead x
  else if off = 0x200 then x.cause.toNat
  else if off = 0x204 then x.intEn.toNat
  else if off = 0x208 then x.directVec
  else if 0x280 ≤ off ∧ off < 0x300 then coalRead x .pf0 ((off - 0x280) / 4)
  else if off = 0x300 then atBit 0 s.aon.lock
  else if 0x304 ≤ off ∧ off < 0x330 then (if n = 0 then guardRead s off else 0)
  else if 0x400 ≤ off ∧ off < 0x508 then statusRead d n off
  else if off = 0x600 then x.indAddr
  else if off = 0x608 then (readIndCtrl d n).1
  else if 0x8000 ≤ off ∧ off < 0x8200 then msixRead x .pf0 (off - 0x8000)
  else if 0x9000 ≤ off ∧ off < 0x9008 then pbaRead x .pf0 (off - 0x9000)
  else 0

/-- The block of a punt or tap ring (R592). -/
def blockRead (x : Die) (r : PRing) (off : Nat) : Nat :=
  let k := pRingOf x r
  if off = 0x10 then atBit 1 k.overrun + atBit 0 k.enable else if off = 0x14 then k.write else 0

/-- PF1 and VF BAR0 (R592). -/
def pf1Read (x : Die) (off : Nat) : Nat :=
  if off < 0x400 then blockRead x (.punt (off / 64)) (off % 64)
  else if 0x800 ≤ off ∧ off < 0x840 then coalRead x .pf1 ((off - 0x800) / 4)
  else if 0x2000 ≤ off ∧ off < 0x2100 then msixRead x .pf1 (off - 0x2000)
  else if 0x3000 ≤ off ∧ off < 0x3008 then pbaRead x .pf1 (off - 0x3000)
  else 0

def vfRead (x : Die) (k off : Nat) : Nat :=
  if off = 0x40 then coalRead x (.vf k) 0
  else if 0x800 ≤ off ∧ off < 0x810 then msixRead x (.vf k) (off - 0x800)
  else if 0xC00 ≤ off ∧ off < 0xC08 then pbaRead x (.vf k) (off - 0xC00)
  else blockRead x (.tap k) off

/-- The word that a read of a direct register returns, whatever its byte enables: 0 at an offset that is not assigned,
which includes one that is not aligned (R12, R578). -/
def regRead (s : State) (n : Nat) (fn : Fn) (off : Nat) : Word :=
  if !fnUp s.dev n fn || off % 4 != 0 then 0
  else BitVec.ofNat 32 (match fn with
    | .pf0 => pf0Read s n off
    | .pf1 => pf1Read (dieOf s.dev n) off
    | .vf k => vfRead (dieOf s.dev n) k off)

/-- The state after that read: a read of IND_CTRL has waited for the indirect writes before it (R585). -/
def afterRead (s : State) (n : Nat) (fn : Fn) (off : Nat) : State :=
  if fnUp s.dev n fn && fn == .pf0 && off == 0x608 then { s with dev := (readIndCtrl s.dev n).2 } else s

end Sys2Proof.Machine
end

