-- ==== Sys2Proof/Safety.lean ====
section
/-! DEFINITION. What counts as a safe run, in the terms that statements use: a state reached from another by steps of
the machine, each answering a next state; and what of a device reporting never touches. -/

namespace Sys2Proof.Machine

/-- `t` is reached from `s` by `n` steps, none of which faults or refuses. -/
def runs : Nat → State → State → Prop
  | 0, s, t => s = t
  | n + 1, s, t => ∃ u, step s = .next u ∧ runs n u t

/-- The machine goes on from `s` for `n` steps. -/
def safeFor (n : Nat) (s : State) : Prop := ∃ t, runs n s t

/-- A die without what reporting changes. -/
def Die.body (x : Die) : Die := { x with
  rings := []
  cmdTurn := 0
  evt := {}
  cause := 0
  causeNew := 0
  causeAt := 0
  vecs := []
  seq := 0
  lostEv := []
  counters := [] }

/-- A device without what completions, events, interrupts, counters and the journal change. -/
def body (d : Dev) : Dev := { d with
  dies := d.dies.map Die.body
  mem := []
  out := []
  pends := []
  ha := {} }

/-- A device without the state of the peer link's port, which a frame sent on it changes (R156). -/
def offPeer (d : Dev) : Dev := { d with ports := kdel d.ports 0x5C }

end Sys2Proof.Machine
end

