-- ==== Sys2Proof/Certificates/Slice0/Obligations.lean ====
section
/-! DEFINITION. The statements for the provers, each a Prop. The names of Sys2Proof.Claims are the words that the
statements share. -/

namespace Sys2Proof.Claims

open Sys2Proof.Machine

/-- A Rontis command can start now (R541 to R557), no cause of R553 refuses it, and the mirror of the master copy stands
where a command of kind W needs it (R617). -/
def Accepted (s : State) (c : Cmd) (sp : CmdSpec) : Bool :=
  canStart s.dev c && (refusal s.dev c sp).isNone && (sp.kind != .w || s.dev.mirrorOk)

/-- `t` is a state in which a command has just been answered with a reply: `complete` writes the completion of R548, or
holds it where R555, R566, R568 or R648 make it wait (see CompletionIsWrittenOrHeld). Nothing in the AON domain and no
waiting command changed. -/
def Answered (s t : State) (c : Cmd) (opcode : Nat) (r : Reply) : Prop :=
  t.pending = s.pending ∧ t.aon = s.aon ∧ ∃ d seq, t.dev = complete d c opcode seq r

/-- A property of the package-wide tables holds in d0's master copy and on every die that is not lost. -/
def InTables (s t : State) (P : Tables → Prop) : Prop :=
  P t.dev.master ∧ ∀ n, n < s.dev.dies.length → alive s.dev n = true → P (dieOf t.dev n).tab

/-- What a device holds outside its dies, host memory, outputs, held completions, pairing and the notices of dies lost at
start-up: package state, ports, lanes, frames, copies, VOQs, master copy, time domains and scheduled actions. -/
def around (d : Dev) : Dev := { d with
  dies := []
  mem := []
  out := []
  pends := []
  ha := {}
  lostAtBoot := [] }

/-- `e` differs from `d` in nothing of `around` but the peer link's port, and in nothing where `d` does not journal: a
journal entry on the peer link changes that port (R156, R646). -/
def aroundKept (d e : Dev) : Prop :=
  around (offPeer e) = around (offPeer d) ∧ (journaling d = false → around e = around d)

/-- The commands that only read (kind R of R574), but for the one form that clears a log. -/
def readCommands (c : Cmd) : List Instr :=
  [.sysNop c, .sysInfo c, .sysDieStatus c, .portStatus c, .tenVeGet c, .tenGet c, .tenStatus c, .tblMacGet c,
   .tblRouteGet c, .tblStatus c, .tblMcgGet c, .clsRuleGet c, .polGet c, .cntRead c none, .qosBufStatus c, .qosVoqStatus c,
   .qosPathGet c, .qosFabricStatus c, .qosFcStatus c, .pwrStatus c, .pwrAcctGet c, .pwrModelGet c, .timeGet c,
   .timePpsGet c, .schedGet c, .haStatus c, .memStatus c, .secAttest c, .secFlashStatus c, .secFuseRead c]

/-- The commands that change dies alone. -/
def dieCommands (c : Cmd) (l : List Byte) : List Instr :=
  [.sysEventMask c, .tblMacAdd c, .tblMacDel c, .tblMacFlush c, .tblMacConfig c, .tblErrModeSet c, .clsRuleSet c l,
   .clsPuntRingSet c, .polSet c, .mirTapSet c, .cntClear c, .cntSnapSet c, .qosBufSet c, .qosPathSet c l, .qosWredSet c,
   .pwrPolicySet c, .timeTxtsRead c, .memScrubSet c, .memLogRead c, .memRetire c, .memChannelRestart c]

/-- The commands that change the package-wide tables and their copies on the dies alone. -/
def tableCommands (c : Cmd) (l : List Byte) : List Instr :=
  [.tblBdSet c, .tblRouteSet c, .tblMcgSet c l, .clsParserSet c, .clsUdfSet c, .qosTenBufSet c, .qosWredBind c]

end Sys2Proof.Claims

open Sys2Proof Sys2Proof.Machine Sys2Proof.Claims

/-- Completion of the SYS_ commands and of an unknown opcode (R537, R573, R574). -/
def Obligations.SystemCommandsComplete : Prop :=
  ∀ (s : State) (c : Cmd),
    (Accepted s c specSysNop = true →
      ∃ t, exec (.sysNop c) s = .next t ∧ Answered s t c 0x0101 { status := stOk } ∧ body t.dev = body s.dev) ∧
    (Accepted s c specSysInfo = true →
      ∃ t, exec (.sysInfo c) s = .next t ∧ body t.dev = body s.dev ∧
        Answered s t c 0x0102 (okResult (leBytes 2 (partCode s.dev.part) ++ leBytes 1 (dieCount s.dev.part)
          ++ leBytes 1 (lostMask s.dev) ++ leBytes 4 s.dev.fwVersion ++ leBytes 1 (roleOf s.dev)
          ++ leBytes 1 (domainCount s.dev.part)))) ∧
    (Accepted s c (specSysEventMask s.dev c.params) = true →
      ∃ t, exec (.sysEventMask c) s = .next t ∧ Answered s t c 0x0103 { status := stOk } ∧
        ∀ n, n < s.dev.dies.length → bitOf (pf c.params 0 1) n = true → n < 8 →
          (bitOf (pf c.params 1 1) 0 = true → (dieOf t.dev n).home = pf c.params 2 1) ∧
          (bitOf (pf c.params 1 1) 1 = true →
            ((dieOf t.dev n).masked.contains (pf c.params 4 2) = !bitOf (pf c.params 1 1) 2))) ∧
    (Accepted s c (specSysDieStatus s.dev c.params) = true →
      ∃ t, exec (.sysDieStatus c) s = .next t ∧ body t.dev = body s.dev ∧
        Answered s t c 0x0104 (okResult (
          let x := dieOf s.dev (pf c.params 0 1)
          leBytes 1 (if x.lost then 2 else if x.keeper = .restarting then 1 else if x.parked then 3 else 0)
            ++ leBytes 1 (atBit 0 x.mbHalt) ++ leBytes 2 0 ++ leBytes 4 x.restarts ++ leBytes 8 x.lastRestart))) ∧
    (∀ op : BitVec 16, canStart s.dev c = true → accepted s.dev c.die op.toNat = false →
      ∃ t, exec (.unknownCommand op c) s = .next t ∧ body t.dev = body s.dev ∧
        Answered s t c op.toNat { status := stBadArg, detail := 0 })

/-- Completion of the TEN_ commands (R187, R192 to R195) and of the deferred report of OVER_QUOTA (R188). -/
def Obligations.TenantCommandsComplete : Prop :=
  ∀ (s : State) (c : Cmd),
    (Accepted s c (specTenVeSet s.dev c.params) = true →
      ∃ t, exec (.tenVeSet c) s = .next t ∧
        Answered s t c 0x0301 { status := if (bitOf (pf c.params 15 1) 0
          && capBelowUse s.dev (pf c.params 0 2) (pf c.params 20 4)) then stOverQuota else stOk } ∧
        InTables s t fun x => veOf x (pf c.params 0 2) = veOfParams c.params) ∧
    (Accepted s c (specTenVeGet s.dev c.params) = true →
      ∃ t, exec (.tenVeGet c) s = .next t ∧ body t.dev = body s.dev ∧
        Answered s t c 0x0302 (okResult (
          veBytes (pf c.params 0 2) (veOf (dieOf s.dev (pf c.params 2 1)).tab (pf c.params 0 2))
            ++ leBytes 4 (kget (dieOf s.dev (pf c.params 2 1)).veUse (pf c.params 0 2) 0)))) ∧
    (Accepted s c (specTenSet s.dev c.params) = true →
      ∃ t, exec (.tenSet c) s = .next t ∧
        Answered s t c 0x0303 { status := if quotaBelowUse s.dev (pf c.params 0 2) (tenantOfParams c.params)
          then stOverQuota else stOk } ∧
        InTables s t fun x => tenantOf x (pf c.params 0 2) = tenantOfParams c.params) ∧
    (Accepted s c (specTenGet c.params) = true →
      ∃ t, exec (.tenGet c) s = .next t ∧ body t.dev = body s.dev ∧
        Answered s t c 0x0304 (okResult (tenantBytes (tenantOf s.dev.master (pf c.params 0 2))))) ∧
    (Accepted s c (specTenStatus s.dev c.params) = true →
      ∃ t, exec (.tenStatus c) s = .next t ∧ body t.dev = body s.dev ∧
        Answered s t c 0x0305 (okResult (
          let n := pf c.params 2 1
          let tn := pf c.params 0 2
          leBytes 4 (kget (dieOf s.dev n).combUse tn 0) ++ leBytes 4 (kget (dieOf s.dev n).storeUse tn 0)
            ++ leBytes 4 (macUse (dieOf s.dev n) tn) ++ leBytes 1 (overBits s.dev n tn) ++ leBytes 3 0
            ++ leBytes 8 (counterOf s.dev n (slotTenant tn drQuota))
            ++ leBytes 8 (counterOf s.dev n (slotTenant tn cntLearnQuota))))) ∧
    (∀ n tn, n < s.dev.dies.length → alive s.dev n = true →
      (kget (dieOf s.dev n).overQ tn {}).wait = true →
      mayRaise s.dev (kget (dieOf s.dev n).overQ tn {}).last (10 * ms) = true →
      ∃ t, exec (.overQuotaEventDue n tn) s = .next t ∧
        kget (dieOf t.dev n).overQ tn {} =
          { bits := overBits s.dev n tn, wait := false, last := some s.dev.now } ∧
        ∃ d, t.dev = raise d n evTenOverQuota (leBytes 2 tn ++ leBytes 1 (overBits s.dev n tn)))

/-- Completion of the TBL_ commands that write (R289 to R296). -/
def Obligations.TableWritesComplete : Prop :=
  ∀ (s : State) (c : Cmd),
    (Accepted s c (specTblMacAdd s.dev c.params) = true →
      ∃ t, exec (.tblMacAdd c) s = .next t ∧ Answered s t c 0x0401 { status := stOk } ∧
        ∀ n, n < s.dev.dies.length → alive s.dev n = true →
          ∃ i, (i, staticOfParams c.params) ∈ (dieOf t.dev n).mac) ∧
    (Accepted s c (specTblMacDel s.dev c.params) = true →
      ∃ t, exec (.tblMacDel c) s = .next t ∧ Answered s t c 0x0402 { status := stOk } ∧
        ∀ n, n < s.dev.dies.length → alive s.dev n = true →
          (bitOf (pf c.params 8 1) 0 = true ∨ bitOf (pf c.params 9 1) n = true ∧ n < 8) →
          ∀ e ∈ (dieOf t.dev n).mac,
            ¬(e.2.key = macKey (pf c.params 0 2) (macField c.params 2) ∧ e.2.static = bitOf (pf c.params 8 1) 0)) ∧
    (Accepted s c (specTblMacFlush s.dev c.params) = true →
      ∃ t, exec (.tblMacFlush c) s = .next t ∧ Answered s t c 0x0403 { status := stOk } ∧
        ∀ n, n < s.dev.dies.length → bitOf (pf c.params 0 1) n = true → n < 8 →
          (dieOf t.dev n).mac = (dieOf s.dev n).mac.filter fun e => !flushHit c.params e.2) ∧
    (Accepted s c (specTblMacConfig s.dev c.params) = true →
      ∃ t, exec (.tblMacConfig c) s = .next t ∧ Answered s t c 0x0405 { status := stOk } ∧
        ∀ n, n < s.dev.dies.length → bitOf (pf c.params 0 1) n = true → n < 8 →
          (dieOf t.dev n).evictOldest = (pf c.params 1 1 == 1) ∧ (dieOf t.dev n).agePeriod = pf c.params 2 2 ∧
          (s.dev.now < (dieOf s.dev n).ageSweep.at' + (dieOf s.dev n).ageSweep.period * sec →
            (dieOf t.dev n).ageSweep = (dieOf s.dev n).ageSweep)) ∧
    (Accepted s c (specTblBdSet s.dev c.params) = true →
      ∃ t, exec (.tblBdSet c) s = .next t ∧ Answered s t c 0x0406 { status := stOk } ∧
        InTables s t fun x => bdOf x (bitsOf (pf c.params 0 2) 0 14) =
          { floodEn := bitOf (pf c.params 2 1) 0, group := pf c.params 4 2, routeEn := bitOf (pf c.params 2 1) 1,
            mac := macField c.params 6 }) ∧
    (Accepted s c (specTblRouteSet s.dev c.params) = true →
      ∃ t, exec (.tblRouteSet c) s = .next t ∧ Answered s t c 0x0407 { status := stOk } ∧
        InTables s t fun x => kget? x.routes (routeOfParams c.params) =
          if bitOf (pf c.params 4 1) 0 then
            some { drop := bitOf (pf c.params 4 1) 1, ve := pf c.params 6 2, mac := macField c.params 8 }
          else none) ∧
    (Accepted s c (specTblErrModeSet s.dev c.params) = true → pf c.params 0 1 < s.dev.dies.length →
      ∃ t, exec (.tblErrModeSet c) s = .next t ∧ Answered s t c 0x0409 { status := stOk } ∧
        (kget (dieOf t.dev (pf c.params 0 1)).errModes (pf c.params 1 1) {}).shadow = (pf c.params 2 1 == 1) ∧
        (kget (dieOf t.dev (pf c.params 0 1)).errModes (pf c.params 1 1) {}).period = pf c.params 4 2 ∧
        (kget (dieOf t.dev (pf c.params 0 1)).errModes (pf c.params 1 1) {}).base = pf c.params 8 8 ∧
        (kget (dieOf t.dev (pf c.params 0 1)).errModes (pf c.params 1 1) {}).sweep =
          { at' := s.dev.now, period := pf c.params 4 2 })

/-- Completion of the TBL_ commands that read (R288, R294, R296). -/
def Obligations.TableReadsComplete : Prop :=
  ∀ (s : State) (c : Cmd),
    (Accepted s c (specTblMacGet s.dev c.params) = true →
      ∃ t, exec (.tblMacGet c) s = .next t ∧ body t.dev = body s.dev ∧
        Answered s t c 0x0404 (okResult (
          match macLookup (dieOf s.dev (pf c.params 8 1)) (macKey (pf c.params 0 2) (macField c.params 2)) with
          | none => []
          | some (i, e) => leBytes 1 1 ++ leBytes 1 (atBit 0 e.static + atBit 1 e.act + e.age * 4 + atBit 4 e.group)
              ++ leBytes 2 e.dest ++ leBytes 2 e.tenant ++ leBytes 2 0 ++ leBytes 4 i))) ∧
    (Accepted s c (specTblRouteGet c.params) = true →
      ∃ t, exec (.tblRouteGet c) s = .next t ∧ body t.dev = body s.dev ∧
        Answered s t c 0x0408 (okResult (
          match kget? s.dev.master.routes (routeOfParams c.params) with
          | none => []
          | some h => leBytes 1 (1 + atBit 1 h.drop) ++ leBytes 1 0 ++ leBytes 2 h.ve ++ beBytes 6 h.mac ++ leBytes 2 0
              ++ leBytes 4 (storedKeys s.dev.master.routes (routeOfParams c.params)
                (kget s.dev.master.routeLens (routeOfParams c.params) (routeOfParams c.params).len)).length))) ∧
    (Accepted s c (specTblStatus s.dev c.params) = true →
      ∃ t, exec (.tblStatus c) s = .next t ∧ body t.dev = body s.dev ∧
        Answered s t c 0x040A (okResult (
          let x := dieOf s.dev (pf c.params 0 1)
          leBytes 4 (x.mac.filter fun e => !e.2.static).length ++ leBytes 4 (x.mac.filter fun e => e.2.static).length
            ++ leBytes 4 (lpmTable x 4).length ++ leBytes 4 (lpmTable x 6).length)))

/-- Completion of the PORT_ commands (R89 to R94, R550, R731). What ACTION 0 and 2 of PORT_TEST answer on a port that
is not in test mode, and the rounding of HOLD_LEFT, are the model's choice (log entry 56); that the field found wrong
of an eye scan that lost its lane is LANE is its inference (log entry 32). -/
def Obligations.PortCommandsComplete : Prop :=
  ∀ (s : State) (c : Cmd),
    (Accepted s c (specPortConfig s.dev c.params) = true →
      ∃ t, exec (.portConfig c) s = .next t ∧ Answered s t c 0x0201 { status := stOk } ∧
        (portOf t.dev (pf c.params 0 2)).conf =
          { mode := pf c.params 2 1, width := pf c.params 3 1, rate := pf c.params 4 1, flags := pf c.params 5 1,
            txInv := pf c.params 6 1, rxInv := pf c.params 7 1 } ∧
        (portOf t.dev (pf c.params 0 2)).ceiling = none ∧
        (pf c.params 2 1 = 0 → (portOf t.dev (pf c.params 0 2)).link = .disabled ∧
          (portOf t.dev (pf c.params 0 2)).power = .l2) ∧
        (pf c.params 2 1 ≠ 0 → (portOf s.dev (pf c.params 0 2)).link = .quarantine →
          (portOf t.dev (pf c.params 0 2)).link = .quarantine) ∧
        (pf c.params 2 1 ≠ 0 → (portOf s.dev (pf c.params 0 2)).link ≠ .quarantine →
          portsRun s.dev (pf c.params 0 2) = true →
          (portOf t.dev (pf c.params 0 2)).link = if pf c.params 2 1 = 1 then .seek else .down)) ∧
    (Accepted s c (specPortStatus s.dev c.params) = true →
      ∃ t, exec (.portStatus c) s = .next t ∧ body t.dev = body s.dev ∧
        Answered s t c 0x0202 (okResult (portStatusBytes s.dev (pf c.params 0 2)))) ∧
    (Accepted s c (specPortRetrain s.dev c.params) = true →
      ∃ t, exec (.portRetrain c) s = .next t ∧ Answered s t c 0x0203 { status := stOk } ∧
        (portOf t.dev (pf c.params 0 2)).ceiling = none ∧
        (portOf t.dev (pf c.params 0 2)).link =
          if (portOf s.dev (pf c.params 0 2)).link = .quarantine then .quarantine
          else if isSpindle s.dev (pf c.params 0 2) then .seek else .down) ∧
    (Accepted s c (specPortTest s.dev c.params) = true →
      ∃ t, exec (.portTest c) s = .next t ∧
        (pf c.params 2 1 = 0 → Answered s t c 0x0204 { status := stOk } ∧
          (portOf t.dev (pf c.params 0 2)).ceiling = (portOf s.dev (pf c.params 0 2)).ceiling ∧
          ((portOf s.dev (pf c.params 0 2)).link = .test → (portOf t.dev (pf c.params 0 2)).link =
            if isSpindle s.dev (pf c.params 0 2) then .seek else .down)) ∧
        (pf c.params 2 1 = 1 → Answered s t c 0x0204 { status := stOk } ∧
          (portOf t.dev (pf c.params 0 2)).link = .test ∧ (portOf t.dev (pf c.params 0 2)).power = .l0 ∧
          (portOf t.dev (pf c.params 0 2)).testRate = pf c.params 3 1) ∧
        (pf c.params 2 1 = 2 → body (offPeer t.dev) = body (offPeer s.dev) ∧
          (journaling s.dev = false → body t.dev = body s.dev) ∧
          Answered s t c 0x0204 (okResult (prbsBytes s.dev (pf c.params 0 2) (pf c.params 0 2 + pf c.params 4 1))))) ∧
    (∀ (cdr : Bool) (errors : BitVec 64) (held : Bool), Accepted s c (specPortEyeScan s.dev c.params cdr errors held) = true →
      ∃ t, exec (.portEyeScan c ⟨cdr, errors⟩ held) s = .next t ∧ body t.dev = body s.dev ∧
        Answered s t c 0x0205 (if held then okResult (leBytes 8 errors.toNat) else { status := stBadArg, detail := 16 })) ∧
    (Accepted s c (specPortRelease s.dev c.params) = true →
      ∃ t, exec (.portRelease c) s = .next t ∧ Answered s t c 0x0206 { status := stOk } ∧
        (isPort s.dev (pf c.params 0 2) = true → (portOf s.dev (pf c.params 0 2)).link = .quarantine →
          (portOf t.dev (pf c.params 0 2)).transitions = [] ∧
          (portOf t.dev (pf c.params 0 2)).quarEnd = some s.dev.now ∧
          (portsRun s.dev (pf c.params 0 2) = true → (portOf t.dev (pf c.params 0 2)).link =
            if isSpindle s.dev (pf c.params 0 2) then .seek else .down)))

/-- Completion of the CLS_ commands (R223, R231, R234 to R238). -/
def Obligations.ClassifierCommandsComplete : Prop :=
  ∀ (s : State) (c : Cmd),
    (∀ record : List Byte, Accepted s c (specClsRuleSet s.dev c.params record) = true →
      ∃ t, exec (.clsRuleSet c record) s = .next t ∧ Answered s t c 0x0501 { status := stOk } ∧
        ∀ n k, n < s.dev.dies.length → n < 8 → bitOf (pf c.params 0 1) n = true → k < 4 →
          bitOf (pf c.params 1 1) k = true →
          kget? (dieOf t.dev n).rules (k, bitsOf (pf c.params 2 2) 0 14) =
            if bitOf (pf c.params 4 1) 0 then some (ruleOfRecord record) else none) ∧
    (Accepted s c (specClsRuleGet c.die s.dev c.params) = true →
      ∃ t, exec (.clsRuleGet c) s = .next t ∧ body t.dev = body s.dev ∧
        let r := kget? (dieOf s.dev (pf c.params 0 1)).rules (pf c.params 1 1, bitsOf (pf c.params 2 2) 0 14)
        t = { s with dev := (complete (hostWrite (fetchCmd s.dev c) c.die .pf0 (pf c.params 8 8)
          (ruleBytes (r.getD ⟨0, 0, 0⟩))) c 0x0502 0 (okResult (leBytes 1 (atBit 0 r.isSome)))) }) ∧
    (Accepted s c (specClsPortSet s.dev c.params) = true →
      ∃ t, exec (.clsPortSet c) s = .next t ∧ Answered s t c 0x0503 { status := stOk } ∧
        (portOf t.dev (pf c.params 0 2)).set.tcDefault = pf c.params 2 1 % 8 ∧
        (portOf t.dev (pf c.params 0 2)).set.pcpMap = (List.range 8).map (fun k => bitsOf (pf c.params 4 3) (3 * k) 3) ∧
        (portOf t.dev (pf c.params 0 2)).set.actions = (List.range 7).map (fun k => pf c.params (8 + k) 1)) ∧
    (Accepted s c (specClsParserSet s.dev c.params) = true →
      ∃ t, exec (.clsParserSet c) s = .next t ∧ Answered s t c 0x0504 { status := stOk } ∧
        InTables s t fun x => x.vxlanPort = pf c.params 0 2 ∧ x.genevePort = pf c.params 2 2 ∧
          ∀ n, n < 8 → kget x.puntHome n n = pf c.params (8 + n) 1) ∧
    (Accepted s c (specClsUdfSet s.dev c.params) = true →
      ∃ t, exec (.clsUdfSet c) s = .next t ∧ Answered s t c 0x0505 { status := stOk } ∧
        InTables s t fun x => kget x.udfs (pf c.params 0 1 % 4) {} = udfOfParams c.params) ∧
    (Accepted s c (specClsPuntRingSet s.dev c.params) = true → pf c.params 0 1 < s.dev.dies.length →
      ∃ t, exec (.clsPuntRingSet c) s = .next t ∧ Answered s t c 0x0506 { status := stOk } ∧
        let r := kget (dieOf t.dev (pf c.params 0 1)).pRings (.punt (pf c.params 1 1 % 16)) {}
        r.enable = bitOf (pf c.params 1 1) 7 ∧
        (r.enable = true → r.log2 = pf c.params 2 1 ∧ r.cplBase = pf c.params 8 8 ∧
          r.poolBase = [pf c.params 16 8, pf c.params 24 8, pf c.params 32 8] ∧ r.tail = [0, 0, 0] ∧
          r.cons = 0 ∧ r.write = 0))

/-- Completion of the POL_, MIR_ and CNT_ commands and of a snapshot (R304, R322, R324, R327 to R333, R490 to R493). -/
def Obligations.PolicerMirrorCounterCommandsComplete : Prop :=
  ∀ (s : State) (c : Cmd),
    (Accepted s c (specPolSet s.dev c.params) = true →
      ∃ t, exec (.polSet c) s = .next t ∧ Answered s t c 0x0601 { status := stOk } ∧
        ∀ n, n < s.dev.dies.length → n < 8 → bitOf (pf c.params 0 1) n = true →
          policerOf (dieOf t.dev n) (pf c.params 2 2) =
            polCommit (policerOf (dieOf s.dev n) (pf c.params 2 2)) c.params (tickOf s.dev)) ∧
    (Accepted s c (specPolGet s.dev c.params) = true →
      ∃ t, exec (.polGet c) s = .next t ∧ body t.dev = body s.dev ∧
        Answered s t c 0x0602 (okResult (
          let q := polFill (policerOf (dieOf s.dev (pf c.params 0 1)) (pf c.params 2 2)) (tickOf s.dev)
          leBytes 1 0 ++ leBytes 1 (q.mode + atBit 1 q.redDrop) ++ leBytes 2 (pf c.params 2 2)
            ++ leBytes 1 (unsignedOf 8 q.adj) ++ leBytes 3 0 ++ leBytes 4 q.cir ++ leBytes 4 q.pir ++ leBytes 4 q.cbs
            ++ leBytes 4 q.pbs ++ leBytes 4 (q.counter + atBit 31 q.cntEn) ++ leBytes 4 0
            ++ leBytes 4 (q.tc.tokens / byteUnit).toNat ++ leBytes 4 (q.t2.tokens / byteUnit).toNat))) ∧
    (Accepted s c (specMirSet s.dev c.params) = true →
      ∃ t, exec (.mirSet c) s = .next t ∧ Answered s t c 0x0603 { status := stOk } ∧
        (InTables s t fun x => mirrorOf x (pf c.params 0 1) = mirrorOfParams c.params) ∧
        ((mirrorOf s.dev.master (pf c.params 0 1)).enable = false → bitOf (pf c.params 2 1) 0 = true →
          kget t.dev.mirSeq (pf c.params 0 1) 0 = 0)) ∧
    (Accepted s c (specMirTapSet s.dev c.params) = true → pf c.params 0 1 < s.dev.dies.length →
      ∃ t, exec (.mirTapSet c) s = .next t ∧ Answered s t c 0x0604 { status := stOk } ∧
        let r := kget (dieOf t.dev (pf c.params 0 1)).pRings (.tap (pf c.params 1 1 % 64)) {}
        r.enable = bitOf (pf c.params 1 1) 7 ∧ r.tenant = pf c.params 4 2 ∧
        (r.enable = true → r.log2 = pf c.params 2 1 ∧ r.cplBase = pf c.params 8 8 ∧ r.cons = 0 ∧ r.write = 0)) ∧
    (Accepted s c (specCntRead c.die s.dev c.params) = true →
      ∃ t, exec (.cntRead c none) s = .next t ∧ body t.dev = body s.dev ∧
        (pf c.params 16 8 = 0 → Answered s t c 0x0605
          (okResult (leBytes 8 (counterOf s.dev (pf c.params 0 1) (pf c.params 4 4))))) ∧
        (pf c.params 16 8 ≠ 0 → ∃ d, t.dev = complete (hostWrite d c.die .pf0 (pf c.params 16 8)
          ((List.range (pf c.params 8 4)).flatMap fun j =>
            leBytes 8 (counterOf s.dev (pf c.params 0 1) (pf c.params 4 4 + j)))) c 0x0605 0 {})) ∧
    (Accepted s c (specCntClear s.dev c.params) = true →
      ∃ t, exec (.cntClear c) s = .next t ∧ ∃ d seq, t.dev = complete d c 0x0606 seq {} ∧
        ∀ i, pf c.params 4 4 ≤ i → i < pf c.params 4 4 + pf c.params 8 4 → counterOf d (pf c.params 0 1) i = 0) ∧
    (Accepted s c (specCntSnapSet s.dev c.params) = true → pf c.params 0 1 < s.dev.dies.length →
      ∃ t, exec (.cntSnapSet c) s = .next t ∧ Answered s t c 0x0607 { status := stOk } ∧
        let k := (dieOf t.dev (pf c.params 0 1)).snap
        k.enable = bitOf (pf c.params 1 1) 0 ∧ k.nbuf = pf c.params 2 1 ∧ k.home = pf c.params 3 1 ∧
          k.interval = pf c.params 4 4 ∧ k.base = pf c.params 8 8 ∧ k.t0 = s.dev.now ∧ k.n = 0) ∧
    (∀ n, n < s.dev.dies.length → alive s.dev n = true → (dieOf s.dev n).snap.enable = true →
      expired s.dev (snapDue (dieOf s.dev n).snap) 0 = true →
      (snapBlocked s.dev n = true →
        ∃ t, exec (.snapshotDue n) s = .next t ∧ (dieOf t.dev n).snap.n = (dieOf s.dev n).snap.n + 1 ∧
          (dieOf t.dev n).snap.s = (dieOf s.dev n).snap.s ∧ (dieOf t.dev n).snap.skipped = true) ∧
      (snapBlocked s.dev n = false →
        (expired s.dev (snapDue (dieOf s.dev n).snap) (5 * ms) = true ∧ forcedBelow s.dev n 5 = false ∨
          s.dev.pkg.engaged = false ∧ forcedBelow s.dev n 6 = false ∧ waitsBelow s.dev n 5 = false) →
        ∃ t, exec (.snapshotDue n) s = .next t ∧ (dieOf t.dev n).snap.n = (dieOf s.dev n).snap.n + 1 ∧
          (dieOf t.dev n).snap.s = (dieOf s.dev n).snap.s + 1 ∧ (dieOf t.dev n).snap.skipped = false))

/-- Completion of the QOS_ commands on buffers, VOQs and bindings (R341, R356, R374 to R377). -/
def Obligations.BufferCommandsComplete : Prop :=
  ∀ (s : State) (c : Cmd),
    (Accepted s c (specQosBufSet s.dev c.params) = true →
      ∃ t, exec (.qosBufSet c) s = .next t ∧ Answered s t c 0x0701 { status := stOk } ∧
        ∀ n, n < s.dev.dies.length → n < 8 → bitOf (pf c.params 0 1) n = true →
          (dieOf t.dev n).comb.egressPool = pf c.params 4 4) ∧
    (Accepted s c (specQosBufProfileSet s.dev c.params) = true →
      ∃ t, exec (.qosBufProfileSet c) s = .next t ∧ Answered s t c 0x0702 { status := stOk } ∧
        InTables s t fun x => kget x.bufs (pf c.params 0 1) {} =
          { alpha := pf c.params 1 1, minCells := pf c.params 4 4, spillEn := bitOf (pf c.params 2 1) 0,
            spillOn := pf c.params 8 4, spillOff := pf c.params 12 4, readTh := pf c.params 16 2,
            storeMax := pf c.params 20 4 }) ∧
    (Accepted s c (specQosVoqBind s.dev c.params) = true →
      ∃ t, exec (.qosVoqBind c) s = .next t ∧ Answered s t c 0x0703 { status := stOk } ∧
        InTables s t fun x => ∀ k, k < 8 → bitOf (pf c.params 3 1) k = true →
          kget x.bufBind (bitOf (pf c.params 2 1) 0, pf c.params 0 2, k) 0 = pf c.params 4 1) ∧
    (Accepted s c (specQosTenBufSet s.dev c.params) = true →
      ∃ t, exec (.qosTenBufSet c) s = .next t ∧ Answered s t c 0x0704 { status := stOk } ∧
        InTables s t fun x => kget x.tenAlpha (pf c.params 0 2) 15 = pf c.params 2 1) ∧
    (Accepted s c (specQosBufStatus s.dev c.params) = true →
      ∃ t, exec (.qosBufStatus c) s = .next t ∧ body t.dev = body s.dev ∧
        Answered s t c 0x0705 (okResult (
          let x := dieOf s.dev (pf c.params 0 1)
          leBytes 4 (listedCells x.comb) ++ leBytes 4 (freeCells x.comb) ++ leBytes 4 (sharedFree x.comb)
            ++ leBytes 2 (poolLeft x.comb 1) ++ leBytes 2 (poolLeft x.comb 2) ++ leBytes 4 (poolLeft x.comb 3)
            ++ leBytes 4 (freePages x) ++ leBytes 4 (4194304 - x.pagesRetired.length)
            ++ leBytes 2 (s.dev.voqs.filter fun e => e.1.die == pf c.params 0 1 && e.2.spill).length))) ∧
    (Accepted s c (specQosVoqStatus s.dev c.params) = true →
      ∃ t, exec (.qosVoqStatus c) s = .next t ∧ body t.dev = body s.dev ∧
        Answered s t c 0x0706 (okResult (
          let q : VoqKey := ⟨pf c.params 0 1, bitOf (pf c.params 1 1) 0, pf c.params 2 2, pf c.params 4 1⟩
          leBytes 4 (headCells s.dev (voqOf s.dev q)) ++ leBytes 4 (tailCells s.dev (voqOf s.dev q))
            ++ leBytes 4 (voqOf s.dev q).pages.length ++ leBytes 1 (atBit 0 (voqOf s.dev q).spill)
            ++ leBytes 1 (kget (dieOf s.dev q.die).tab.bufBind (q.mc, q.target, q.tc) 0))))

/-- Completion of the QOS_ commands on paths, cut-through and the fabric (R396, R399, R415 to R418). QOS_PATH_SET answers
when its drain has completed. -/
def Obligations.FabricCommandsComplete : Prop :=
  ∀ (s : State) (c : Cmd),
    (∀ table : List Byte, Accepted s c (specQosPathSet s.dev c.params table) = true →
      pf c.params 0 1 < s.dev.dies.length →
      ∃ t, exec (.qosPathSet c table) s = .next t ∧
        Answered s t c 0x0707 { wait := some (.drain (pf c.params 0 1) (pf c.params 1 1)) } ∧
        (dieOf t.dev (pf c.params 0 1)).draining = (dieOf s.dev (pf c.params 0 1)).draining
          ++ [(pf c.params 1 1, (padTo 64 table).map (·.toNat))]) ∧
    (Accepted s c (specQosPathGet c.die s.dev c.params) = true →
      ∃ t, exec (.qosPathGet c) s = .next t ∧ body t.dev = body s.dev ∧
        t = { s with dev := (complete (hostWrite (fetchCmd s.dev c) c.die .pf0 (pf c.params 8 8)
          ((pathTable s.dev (pf c.params 0 1) (pf c.params 1 1)).map (BitVec.ofNat 8))) c 0x0708 0 {}) }) ∧
    (Accepted s c (specQosCtSet s.dev c.params) = true →
      ∃ t, exec (.qosCtSet c) s = .next t ∧ Answered s t c 0x0709 { status := stOk } ∧
        (portOf t.dev (pf c.params 0 2)).set.ctEn = bitOf (pf c.params 2 1) 0) ∧
    (Accepted s c (specQosFabricStatus s.dev c.params) = true →
      ∃ t, exec (.qosFabricStatus c) s = .next t ∧ body t.dev = body s.dev ∧
        Answered s t c 0x070A (okResult ((List.range 7).flatMap (fun j => leBytes 1 (chanCode s.dev (pf c.params 0 1) j))
          ++ leBytes 1 0 ++ leBytes 1 (lostMask s.dev) ++ leBytes 3 0
          ++ leBytes 4 (((s.dev.ports.map (·.1)).filter fun p => dieOfPort p == pf c.params 0 1).map
            (committed s.dev)).sum))) ∧
    (∀ a e codes, a < s.dev.dies.length → alive s.dev a = true →
      (dieOf s.dev a).draining.find? (fun x => x.1 == e) = some (e, codes) → drained s.dev a e = true →
      ∃ t, exec (.pathDrainComplete a e) s = .next t ∧ kget (dieOf t.dev a).paths e [] = codes ∧
        (dieOf t.dev a).draining = (dieOf s.dev a).draining.eraseP fun x => x.1 == e)

/-- Completion of the QOS_ commands on WRED and flow control and of the multicast group commands (R421, R442, R452 to
R454). -/
def Obligations.CongestionCommandsComplete : Prop :=
  ∀ (s : State) (c : Cmd),
    (Accepted s c (specQosWredSet s.dev c.params) = true →
      ∃ t, exec (.qosWredSet c) s = .next t ∧ Answered s t c 0x070B { status := stOk } ∧
        ∀ n, n < s.dev.dies.length → n < 8 → bitOf (pf c.params 0 1) n = true →
          kget (dieOf t.dev n).wreds (pf c.params 1 1) {} = wredOfParams c.params) ∧
    (Accepted s c (specQosWredBind s.dev c.params) = true →
      ∃ t, exec (.qosWredBind c) s = .next t ∧ Answered s t c 0x070C { status := stOk } ∧
        t.dev.voqs = s.dev.voqs ∧
        InTables s t fun x => ∀ k, k < 8 → bitOf (pf c.params 3 1) k = true →
          kget x.wredBind (bitOf (pf c.params 2 1) 0, pf c.params 0 2, k) 0 = pf c.params 4 1) ∧
    (Accepted s c (specQosFcSet s.dev c.params) = true →
      ∃ t, exec (.qosFcSet c) s = .next t ∧ Answered s t c 0x070D { status := stOk } ∧
        let q := (portOf t.dev (pf c.params 0 2)).set
        q.fcMode = pf c.params 2 1 ∧ q.lossless = pf c.params 3 1 ∧ q.rxMask = pf c.params 4 1 ∧
          q.veXoffEn = bitOf (pf c.params 5 1) 0 ∧ q.hold = pf c.params 6 2 ∧ q.xoffTh = pf c.params 8 4 ∧
          q.xonTh = pf c.params 12 4 ∧ q.headroom = pf c.params 16 4 ∧ q.veXoffOn = pf c.params 20 4 ∧
          q.veXoffOff = pf c.params 24 4 ∧ q.watchdog = pf c.params 28 2 ∧ q.smac = pbytes c.params 32 6) ∧
    (Accepted s c (specQosFcStatus s.dev c.params) = true →
      ∃ t, exec (.qosFcStatus c) s = .next t ∧ body t.dev = body s.dev ∧
        Answered s t c 0x070E (okResult (if isPort s.dev (pf c.params 0 2)
          then fcStatusBytes s.dev (pf c.params 0 2) else []))) ∧
    (Accepted s c (specQosMcSet s.dev c.params) = true →
      ∃ t, exec (.qosMcSet c) s = .next t ∧ Answered s t c 0x070F { status := stOk } ∧
        t.dev.pkg = { s.dev.pkg with residue := pf c.params 0 2, mcPort := pf c.params 4 4 }) ∧
    (∀ list : List Byte, Accepted s c (specTblMcgSet s.dev c.params list) = true →
      ∃ t, exec (.tblMcgSet c list) s = .next t ∧ Answered s t c 0x040B { status := stOk } ∧
        InTables s t fun x => groupOf x (pf c.params 0 2) =
          groupOfParams s.dev c.params (padTo (2 * pf c.params 6 2) list)) ∧
    (Accepted s c (specTblMcgGet c.die c.params) = true →
      ∃ t, exec (.tblMcgGet c) s = .next t ∧ body t.dev = body s.dev ∧
        let g := groupOf s.dev.master (pf c.params 0 2)
        t = { s with dev := (complete (if pf c.params 16 8 = 0 then fetchCmd s.dev c else
            hostWrite (fetchCmd s.dev c) c.die .pf0 (pf c.params 16 8) (g.members.flatMap fun m => leBytes 2 m.1)) c 0x040C 0
          (okResult (leBytes 2 0 ++ leBytes 1 (atBit 0 g.valid + atBit 1 g.redCopy + atBit 2 g.tenantOnly + atBit 3 g.cntEn)
            ++ leBytes 1 0 ++ leBytes 2 g.tenant ++ leBytes 2 g.members.length ++ leBytes 4 g.counter
            ++ leBytes 1 (maskOf 8 fun n => g.members.any fun m => m.2 == n)))) })

/-- Completion of the QOS_SCHED_ commands (R455, R495, R496). -/
def Obligations.SchedulerCommandsComplete : Prop :=
  ∀ (s : State) (c : Cmd),
    (Accepted s c (specQosSchedPortSet s.dev c.params) = true →
      ∃ t, exec (.qosSchedPortSet c) s = .next t ∧ Answered s t c 0x0710 { status := stOk } ∧
        let q := (portOf t.dev (pf c.params 0 2)).set
        q.wcRelease = bitOf (pf c.params 2 1) 0 ∧ q.overhead = ps c.params 3 1 ∧ q.shapeRate = pf c.params 4 4 ∧
          q.shapeBurst = pf c.params 8 4 ∧ q.classMax = (List.range 8).map fun k => pf c.params (16 + 2 * k) 2) ∧
    (Accepted s c (specQosSchedGroupSet s.dev c.params) = true →
      ∃ t, exec (.qosSchedGroupSet c) s = .next t ∧ Answered s t c 0x0711 { status := stOk } ∧
        let old := kget (portOf s.dev (pf c.params 0 2)).set.groups (pf c.params 2 1 % 64) {}
        let g := kget (portOf t.dev (pf c.params 0 2)).set.groups (pf c.params 2 1 % 64) {}
        g.weight = pf c.params 3 1 ∧ g.minRate = pf c.params 4 4 ∧ g.maxRate = pf c.params 8 4 ∧
          g.strict = pf c.params 12 1 ∧ g.classW = (List.range 8).map (fun k => pf c.params (16 + k) 1) ∧
          g.deficit = old.deficit ∧ g.classD = old.classD ∧ g.queues = old.queues) ∧
    (Accepted s c (specQosSchedMapSet s.dev c.params) = true →
      ∃ t, exec (.qosSchedMapSet c) s = .next t ∧ Answered s t c 0x0712 { status := stOk } ∧
        kget (portOf t.dev (pf c.params 0 2)).set.groupMap (pf c.params 2 2 % 1024) 0 = pf c.params 4 1 % 64 ∧
        (portOf t.dev (pf c.params 0 2)).set.groups = (portOf s.dev (pf c.params 0 2)).set.groups)

/-- Completion of the PWR_ commands (R495, R497, R498). -/
def Obligations.PowerCommandsComplete : Prop :=
  ∀ (s : State) (c : Cmd),
    (Accepted s c (specPwrCapSet s.dev c.params) = true →
      ∃ t, exec (.pwrCapSet c) s = .next t ∧ Answered s t c 0x0720 { status := stOk } ∧
        t.dev.pkg = { s.dev.pkg with
          cap := pf c.params 0 2
          tLimit := pf c.params 2 1
          margin := pf c.params 3 1
          horizon := pf c.params 4 2 }) ∧
    (Accepted s c (specPwrPolicySet s.dev c.params) = true →
      ∃ t, exec (.pwrPolicySet c) s = .next t ∧ Answered s t c 0x0721 { status := stOk } ∧
        ∀ n, n < s.dev.dies.length → n < 8 → bitOf (pf c.params 0 1) n = true →
          (dieOf t.dev n).park = pf c.params 1 1 % 4 ∧ (dieOf t.dev n).bankPark = bitOf (pf c.params 1 1) 2 ∧
          (dieOf t.dev n).calFreeze = bitOf (pf c.params 1 1) 3 ∧ (dieOf t.dev n).l2Delay = pf c.params 4 4) ∧
    (Accepted s c (specPwrStatus s.dev c.params) = true →
      ∃ t, exec (.pwrStatus c) s = .next t ∧ body t.dev = body s.dev ∧
        Answered s t c 0x0722 (okResult (
          let n := pf c.params 0 1
          let x := dieOf s.dev n
          leBytes 4 s.dev.pkg.pMean ++ leBytes 2 (capEffOf s.dev / 20) ++ leBytes 1 s.dev.pkg.k
            ++ leBytes 1 (atBit 0 s.dev.pkg.engaged + atBit 1 s.dev.pkg.override + atBit 2 (parkAllowed s.dev n))
            ++ leBytes 2 (unsignedOf 16 x.tMax) ++ leBytes 2 (unsignedOf 16 (s.dev.pkg.fcast / 10)) ++ leBytes 4 x.pMean
            ++ leBytes 1 (((List.range 4).map fun k => sliceCode (sliceOf s.dev n k).pow * 4 ^ k).sum)
            ++ leBytes 1 (12 - (banksIn x.comb .on).length) ++ leBytes 2 0 ++ leBytes 4 x.k))) ∧
    (Accepted s c (specPwrAcctGet s.dev c.params) = true →
      (acctOf s.dev (pf c.params 2 1) (pf c.params 0 2)).share / 1000 < 4294967296 →
      -2147483648 ≤ Int.tdiv (acctOf s.dev (pf c.params 2 1) (pf c.params 0 2)).balance 1000 →
      Int.tdiv (acctOf s.dev (pf c.params 2 1) (pf c.params 0 2)).balance 1000 < 2147483648 →
      ∃ t, exec (.pwrAcctGet c) s = .next t ∧ body t.dev = body s.dev ∧
        Answered s t c 0x0723 (okResult (
          let x := acctOf s.dev (pf c.params 2 1) (pf c.params 0 2)
          let q := quotaPj s.dev (pf c.params 0 2)
          leBytes 4 (match q with
              | some q => q * s.dev.pkg.scale.1 / (s.dev.pkg.scale.2 * 1000000)
              | none => noLimit)
            ++ leBytes 4 (x.share / 1000) ++ leBytes 4 (unsignedOf 32 (if q.isNone then 0 else Int.tdiv x.balance 1000))
            ++ leBytes 4 0 ++ leBytes 8 s.dev.pkg.window))) ∧
    (Accepted s c (specPwrModelGet s.dev c.params) = true →
      ∃ t, exec (.pwrModelGet c) s = .next t ∧ body t.dev = body s.dev ∧
        Answered s t c 0x0724 (okResult (
          let x := dieOf s.dev (pf c.params 0 1)
          (x.coefs.lane.flatMap (leBytes 2)) ++ leBytes 2 x.coefs.lookup ++ leBytes 2 x.coefs.cellW
            ++ leBytes 2 x.coefs.cellR ++ leBytes 2 x.coefs.storeW ++ leBytes 2 x.coefs.storeR
            ++ leBytes 2 x.coefs.sector ++ leBytes 2 0 ++ leBytes 4 x.k)))

/-- Completion of the events that meter and forecast (R465 to R480, R599, R720). -/
def Obligations.PowerEventsComplete : Prop :=
  ∀ s : State,
    (∀ metered aon, windowOver s.dev = true →
      ∃ t, exec (.energyWindowBoundary metered aon) s = .next t ∧
        t.dev.pkg.window = s.dev.pkg.window + 1 ∧
        t.dev.pkg.pMean = ((aliveDies s.dev).map fun n => meanPower (dieOf s.dev n)).sum / 1000 ∧
        t.dev.pkg.capNow = s.dev.pkg.cap ∧ t.dev.pkg.capEff = capEffOf t.dev ∧
        t.dev.pkg.engaged = (decide (970000 * capEffOf t.dev ≤ 20 * meanTotal s.dev)
          || (s.dev.pkg.engaged && decide (t.dev.pkg.below < 10))) ∧
        t.dev.pkg.below = (if 20 * meanTotal s.dev < 900000 * capEffOf t.dev then s.dev.pkg.below + 1 else 0) ∧
        t.dev.pkg.e0 = ((aliveDies s.dev).map (energyMeas metered aon)).sum ∧
        ∀ n, n < s.dev.dies.length → alive s.dev n = true →
          (dieOf t.dev n).pSum = 0 ∧ (dieOf t.dev n).pN = 0 ∧ (dieOf t.dev n).eDyn = (dieOf s.dev n).eLate ∧
          (dieOf t.dev n).eLate = 0 ∧
          ((dieOf s.dev n).calFreeze = false → (dieOf t.dev n).k = (dieOf s.dev n).kNext.headD 65536 ∧
            (dieOf t.dev n).kNext = [nextK (dieOf s.dev n) (energyMeas metered aon n) (staticPj s.dev n)])) ∧
    (∀ n rails temps, n < s.dev.dies.length → alive s.dev n = true → s.dev.run ≠ .reset →
      (dieOf s.dev n).sampled < s.dev.now / (10 * us) →
      ∃ t, exec (.powerSensorSample n rails temps) s = .next t ∧
        (dieOf t.dev n).sampled = s.dev.now / (10 * us) ∧
        t.dev.pkg.pNow = ((aliveDies s.dev).map fun m => ((dieOf t.dev m).rails.map fun r => r.1 * r.2).sum).sum ∧
        (dieOf t.dev n).temps = ((List.range sensorCount).map (fun k =>
          temps.getD k 0 + sensorTrimOf s.dev n k) :: (dieOf s.dev n).temps).take 110 ∧
        (dieOf t.dev n).tMax = greatest ((List.range sensorCount).map (tNow (dieOf t.dev n).temps)) ∧
        (dieOf t.dev n).fcast =
          greatest ((List.range sensorCount).map (sensorForecast (dieOf t.dev n).temps s.dev.pkg.hznNow)) ∧
        t.dev.pkg.fcast = greatest ((aliveDies s.dev).map fun m => (dieOf t.dev m).fcast) ∧
        (dieOf t.dev n).pN = (dieOf s.dev n).pN + 1 ∧
        (dieOf t.dev n).pSum = (dieOf s.dev n).pSum + ((dieOf t.dev n).rails.map fun r => r.1 * r.2).sum ∧
        (1760 ≤ (dieOf t.dev n).tMax → (s.dev.run = .running ∨ s.dev.run = .recovery) → t.dev.thermal = true)) ∧
    (s.dev.grain0.isSome = true → s.dev.run = .running → s.dev.pkg.kAt < tickOf s.dev / 7812500 →
      ∃ t, exec .forecastUpdate s = .next t ∧ t.dev.pkg.kAt = tickOf s.dev / 7812500 ∧
        t.dev.pkg.tLimNow = s.dev.pkg.tLimit ∧ t.dev.pkg.hznNow = s.dev.pkg.horizon ∧
        t.dev.pkg.fcast = (applyLimits s.dev).pkg.fcast ∧
        let lim : Int := ((s.dev.pkg.tLimit : Int) - s.dev.pkg.margin) * 160
        (s.dev.pkg.override = true → t.dev.pkg.k = 0) ∧
        (s.dev.pkg.override = false → lim < t.dev.pkg.fcast → t.dev.pkg.k = min (s.dev.pkg.k + 1) 15) ∧
        (s.dev.pkg.override = false → t.dev.pkg.fcast < lim - 320 → t.dev.pkg.k = s.dev.pkg.k - 1) ∧
        (s.dev.pkg.override = false → t.dev.pkg.fcast ≤ lim → lim - 320 ≤ t.dev.pkg.fcast →
          t.dev.pkg.k = s.dev.pkg.k))

/-- Completion of the events that park and wake slices and comb banks (R485, R487, R488). -/
def Obligations.ParkingEventsComplete : Prop :=
  ∀ s : State, s.dev.dies.length = 8 → ∀ n, alive s.dev n = true →
    (∀ k, k < (dieOf s.dev n).slices.length → slicePark s.dev n k = true → (sliceOf s.dev n k).pow = .on →
      expired s.dev (sliceOf s.dev n k).idleAt (2 * us) = true →
      ∃ t, exec (.sliceRetentionEntry n k) s = .next t ∧ (sliceOf t.dev n k).pow = .retention) ∧
    (∀ k, k < (dieOf s.dev n).slices.length → slicePark s.dev n k = true → (sliceOf s.dev n k).pow = .retention →
      expired s.dev (sliceOf s.dev n k).idleAt (200 * us) = true →
      (∀ p ∈ portsOn s.dev n, sliceOfPort p = k →
        isResting (portOf s.dev p) = true ∧ expired s.dev (portOf s.dev p).restAt (200 * us) = true) →
      ∃ t, exec (.sliceOffEntry n k) s = .next t ∧ (sliceOf t.dev n k).pow = .off) ∧
    (∀ k at', (banksIn (dieOf s.dev n).comb .on).getLast? = some k → k < (dieOf s.dev n).comb.banks.length →
      (dieOf s.dev n).parked = false → s.dev.run = .running → parkAllowed s.dev n = true →
      (dieOf s.dev n).bankPark = true → (dieOf s.dev n).comb.highSince = some at' → expired s.dev at' ms = true →
      4 < (banksIn (dieOf s.dev n).comb .on).length → banksIn (dieOf s.dev n).comb .closing = [] →
      mayRaise s.dev (dieOf s.dev n).comb.bankOffAt ms = true →
      ∃ t, exec (.bankCloseStart n) s = .next t ∧ (dieOf t.dev n).comb.banks.getD k .off = .closing) ∧
    (∀ k, (banksIn (dieOf s.dev n).comb .closing).find? (fun k =>
        !(dieOf s.dev n).comb.held.any fun h => h.cell / bankCells == k) = some k →
      k < (dieOf s.dev n).comb.banks.length →
      ∃ t, exec (.bankOff n) s = .next t ∧ (dieOf t.dev n).comb.banks.getD k .on = .off ∧
        (dieOf t.dev n).comb.bankLog.head? = some k ∧
        (dieOf t.dev n).comb.bankOffAt = some s.dev.now ∧
        counterOf t.dev n (slotDie cntBankPark) = (counterOf s.dev n (slotDie cntBankPark) + 1) % two64) ∧
    (∀ k rest, (dieOf s.dev n).comb.bankLog = k :: rest → k < (dieOf s.dev n).comb.banks.length →
      (dieOf s.dev n).parked = false →
      (sharedFree (dieOf s.dev n).comb < 32768 ∨ parkAllowed s.dev n = false) →
      mayRaise s.dev (dieOf s.dev n).comb.bankWakeAt (4 * us) = true →
      ∃ t, exec (.bankWake n) s = .next t ∧ (dieOf t.dev n).comb.banks.getD k .off = .on ∧
        (dieOf t.dev n).comb.bankLog = rest ∧ (dieOf t.dev n).comb.bankWakeAt = some s.dev.now)

/-- Completion of the TIME_ commands (R531 to R533). -/
def Obligations.TimeCommandsComplete : Prop :=
  ∀ (s : State) (c : Cmd), s.dev.dies.length = 8 → s.dev.domains.length = 16 →
    (Accepted s c (specTimeGet s.dev c.params) = true →
      ∃ t, exec (.timeGet c) s = .next t ∧ body t.dev = body s.dev ∧
        Answered s t c 0x0801 (okResult (leBytes 8 (grainOf s.dev)
          ++ leBytes 8 (wholeNs (domainNow s.dev (pf c.params 0 1)))
          ++ leBytes 2 (domainNow s.dev (pf c.params 0 1) % 65536).toNat
          ++ leBytes 6 (unsignedOf 48 (domainOf s.dev (pf c.params 0 1)).rate)))) ∧
    (Accepted s c (specTimeAdj s.dev c.params) = true →
      ∃ t, exec (.timeAdj c) s = .next t ∧
        Answered s t c 0x0802 (okResult (leBytes 8 (grainOf s.dev)
          ++ leBytes 8 (wholeNs (domainNow s.dev (pf c.params 0 1))))) ∧
        ((pf c.params 1 1 = 0 ∨ pf c.params 1 1 = 3) → domainOf t.dev (pf c.params 0 1) =
          { anchor := tickNow s.dev,
            offset := domainNow s.dev (pf c.params 0 1)
              + (if pf c.params 1 1 = 3 then ps c.params 8 8 * 65536 else 0),
            rate := ps c.params 16 8 }) ∧
        ((pf c.params 1 1 = 1 ∨ pf c.params 1 1 = 2) → domainNow t.dev (pf c.params 0 1) =
          (if pf c.params 1 1 = 1 then domainNow s.dev (pf c.params 0 1) + ps c.params 8 8 * 65536
            else (pf c.params 8 8 : Int) * 65536) ∧
          (domainOf t.dev (pf c.params 0 1)).rate = (domainOf s.dev (pf c.params 0 1)).rate)) ∧
    (Accepted s c (specTimePortSet s.dev c.params) = true →
      ∃ t, exec (.timePortSet c) s = .next t ∧ Answered s t c 0x0803 { status := stOk } ∧
        (portOf t.dev (pf c.params 0 2)).set = { (portOf s.dev (pf c.params 0 2)).set with
          tcMode := bitsOf (pf c.params 2 1) 0 2
          oneStep := bitOf (pf c.params 2 1) 2
          bcEn := bitOf (pf c.params 2 1) 3
          bcDomain := pf c.params 3 1
          rxCorr := ps c.params 4 4
          txCorr := ps c.params 8 4
          peerDelay := pf c.params 12 4
          ptpDomain := pf c.params 16 1 }) ∧
    (Accepted s c (specTimePpsSet s.dev c.params) = true →
      ∃ t, exec (.timePpsSet c) s = .next t ∧ Answered s t c 0x0804 { status := stOk } ∧
        t.dev.pps = { s.dev.pps with
          outEn := bitOf (pf c.params 0 1) 0
          inEn := bitOf (pf c.params 0 1) 1
          outDomain := pf c.params 1 1
          outOffset := ps c.params 4 4
          outWidth := pf c.params 8 4
          inCorr := ps c.params 12 4
          nextN := some ((domainNow s.dev (pf c.params 1 1) - ps c.params 4 4 * 65536) / 65536000000000) }) ∧
    (Accepted s c specTimePpsGet = true →
      ∃ t, exec (.timePpsGet c) s = .next t ∧ body t.dev = body s.dev ∧
        Answered s t c 0x0805 (okResult (leBytes 8 s.dev.pps.grain ++ leBytes 1 s.dev.pps.frac ++ leBytes 3 0
          ++ leBytes 4 s.dev.pps.seq))) ∧
    (Accepted s c (specTimeTxtsRead c.die s.dev c.params) = true →
      ∃ t, exec (.timeTxtsRead c) s = .next t ∧
        Answered s t c 0x0806 (okResult (
          leBytes 1 ((dieOf s.dev (pf c.params 0 1)).txts.take (pf c.params 2 1)).length
            ++ leBytes 1 (atBit 0 (dieOf s.dev (pf c.params 0 1)).txOver))) ∧
        (dieOf t.dev (pf c.params 0 1)).txts = (dieOf s.dev (pf c.params 0 1)).txts.drop (pf c.params 2 1) ∧
        (dieOf t.dev (pf c.params 0 1)).txOver =
          ((dieOf s.dev (pf c.params 0 1)).txOver && !bitOf (pf c.params 1 1) 0))

/-- Completion of the SCHED_ commands and of the run of the due actions at an action tick (R523 to R526, R531, R534). -/
def Obligations.ScheduledActionsComplete : Prop :=
  ∀ (s : State) (c : Cmd),
    (∀ e r, Accepted s c (specSchedAdd s.dev c.params e r) = true →
      ∃ t id, exec (.schedAdd c e r) s = .next t ∧ t.dev.nextAction = (id + 1) % two32 ∧
        Answered s t c 0x0810 (
          if isPast s.dev (pf c.params 0 1) (pf c.params 8 8) && isActive s.dev then
            { status := stLateExecuted, result := leBytes 4 id ++ leBytes 4 0, wait := some (.action id) }
          else okResult (leBytes 4 id ++ leBytes 4 0)) ∧
        (s.dev.actions.length < two32 → ∀ b ∈ s.dev.actions, b.id ≠ id) ∧
        ∃ at', s.dev.now ≤ at' ∧ at' ≤ s.dev.now + ms ∧
          t.dev.actions = s.dev.actions ++ [{
            id := id
            domain := pf c.params 0 1
            t := pf c.params 8 8
            opcode := embedOp e
            params := embedParams e
            record := r
            past := isPast s.dev (pf c.params 0 1) (pf c.params 8 8) && isActive s.dev
            readyAt := at' }]) ∧
    (Accepted s c (specSchedDel s.dev c.params) = true →
      ∃ t, exec (.schedDel c) s = .next t ∧ Answered s t c 0x0811 { status := stOk } ∧
        t.dev.actions = s.dev.actions.filter fun a => a.id != pf c.params 0 4) ∧
    (Accepted s c (specSchedGet c.params) = true →
      ∃ t, exec (.schedGet c) s = .next t ∧ body t.dev = body s.dev ∧
        Answered s t c 0x0812 (okResult (
          match (pendingActions s.dev).find? fun a => a.id == pf c.params 0 4 with
          | none => leBytes 4 0 ++ leBytes 4 (pendingActions s.dev).length ++ leBytes 8 0
          | some a => leBytes 1 1 ++ leBytes 1 a.domain ++ leBytes 2 a.opcode
              ++ leBytes 4 (pendingActions s.dev).length ++ leBytes 8 a.t))) ∧
    (actionsRun s.dev = true →
      ∃ t, exec .schedActionRun s = .next t ∧
        t.dev.actions = s.dev.actions.filter fun b =>
          !(s.dev.actions.any fun a => actionDue s.dev a && a.id == b.id))

/-- Completion of the boundary clock and of the PPS pins (R516 to R518, R715, R716). -/
def Obligations.ClockPinEventsComplete : Prop :=
  ∀ s : State,
    (∀ k rate step slave port message tsReq, k < s.dev.domains.length → s.dev.run = .running →
      s.dev.grain0.isSome = true → k < domainCount s.dev.part → bcUses s.dev k = true → rateOk rate = true →
      (dieOf s.dev 0).keeper = .running → bcPort s.dev k slave = true →
      (step ≠ 0 ∨ rate ≠ (domainOf s.dev k).rate) →
      ∃ t, exec (.boundaryClockMessage k ⟨rate, step, some slave⟩ ⟨port, message, tsReq⟩) s = .next t ∧
        kget? t.dev.bcSlave k = some slave ∧
        domainOf t.dev k =
          { anchor := tickNow s.dev, offset := domainNow s.dev k + step * 65536, rate := rate } ∧
        (message = [] → clockWaiting s.dev k = none → t.dev.frames = s.dev.frames)) ∧
    (∀ k rate step port message tsReq, s.dev.run = .running → s.dev.grain0.isSome = true →
      k < domainCount s.dev.part → bcUses s.dev k = true → rateOk rate = true → (dieOf s.dev 0).keeper = .running →
      ∃ t, exec (.boundaryClockMessage k ⟨rate, step, none⟩ ⟨port, message, tsReq⟩) s = .next t ∧
        kget? t.dev.bcSlave k = none ∧ t.dev.domains = s.dev.domains) ∧
    (∀ stamp : Nat, pinsUp s.dev = true → s.dev.pps.inEn = true → pinReady s.dev s.dev.ppsIn = true →
      (∀ u, s.dev.pps.lastIn = some u → u + 500 * ms ≤ stamp) →
      ∃ t, exec (.ppsInEdge stamp true) s = .next t ∧
        t.dev.pps.seq = (s.dev.pps.seq + 1) % two32 ∧ t.dev.pps.lastIn = some stamp ∧ t.dev.ppsIn.level = true ∧
        t.dev.pps.grain = unsignedOf 64 (((stamp : Int) * 80 - s.dev.pps.inCorr) / 80 / 16) ∧
        t.dev.pps.frac = (((stamp : Int) * 80 - s.dev.pps.inCorr) / 80 % 16).toNat ∧
        ∃ d, t.dev = raise d 0 evPpsIn (leBytes 8 t.dev.pps.grain ++ leBytes 1 t.dev.pps.frac)) ∧
    (∀ stamp, pinsUp s.dev = true → 0 < s.dev.dies.length →
      ∃ t, exec (.ppsInEdge stamp false) s = .next t ∧ t.dev.pps = s.dev.pps ∧ t.dev.ppsIn = s.dev.ppsIn ∧
        counterOf t.dev 0 (slotDie cntPpsInReject) = (counterOf s.dev 0 (slotDie cntPpsInReject) + 1) % two64) ∧
    (pinsUp s.dev = true → s.dev.ppsIn.level = true →
      ∃ t, exec .ppsInFall s = .next t ∧ t.dev.ppsIn = { level := false, lowAt := some s.dev.now }) ∧
    (pinsUp s.dev = true → s.dev.pps.outEn = true →
      (∀ m, s.dev.pps.nextN = some m → m < ppsSecond s.dev (domainNow s.dev s.dev.pps.outDomain)) →
      mayRaise s.dev s.dev.pps.outRose (500 * ms) = true →
      ∃ t, exec .ppsOutRise s = .next t ∧ t.dev.out = Out.pin "PPS_OUT" true :: s.dev.out ∧
        t.dev.pps = { s.dev.pps with
          nextN := some (ppsSecond s.dev (domainNow s.dev s.dev.pps.outDomain))
          out := true
          outRose := some s.dev.now }) ∧
    (∀ u, s.dev.pps.out = true → s.dev.pps.outRose = some u → 2 * u + 25 * s.dev.pps.outWidth ≤ 2 * s.dev.now →
      ∃ t, exec .ppsOutFall s = .next t ∧ t.dev.pps.out = false ∧ t.dev.out = Out.pin "PPS_OUT" false :: s.dev.out)

/-- Completion of the HA_ commands (R652, R657, R661 to R664). -/
def Obligations.PairingCommandsComplete : Prop :=
  ∀ (s : State) (c : Cmd),
    (Accepted s c (specHaConfig s.dev c.params) = true →
      ∃ t, exec (.haConfig c) s = .next t ∧ Answered s t c 0x0901 { status := stOk } ∧
        t.dev.ha = { s.dev.ha with
          auto := bitOf (pf c.params 0 1) 0
          lease := pf c.params 2 2
          holdDown := pf c.params 4 2 }) ∧
    (Accepted s c specHaStatus = true →
      ∃ t, exec (.haStatus c) s = .next t ∧ body t.dev = body s.dev ∧
        Answered s t c 0x0902 (okResult (haStatusBytes s.dev))) ∧
    (Accepted s c (specHaHandover s.dev) = true →
      ∃ t, exec (.haHandover c) s = .next t ∧ Answered s t c 0x0903 { wait := some .handover } ∧
        t.dev.ha = { s.dev.ha with handover := true }) ∧
    (Accepted s c (specHaResync s.dev) = true →
      ∃ t, exec (.haResync c) s = .next t ∧ Answered s t c 0x0904 { status := stOk } ∧
        t.dev.ha.sync = (if s.dev.ha.sync = .stale then .resyncing else s.dev.ha.sync) ∧
        t.dev.actions = (if s.dev.ha.sync = .stale then [] else s.dev.actions))

/-- Completion of the events that renew, answer and watch the queen lease (R633 to R638, R715). -/
def Obligations.LeaseEventsComplete : Prop :=
  ∀ s : State, s.dev.dies.length = 8 →
    (isHolder s.dev = true → expired s.dev s.dev.ha.renewAt (s.dev.ha.inForce * ms / 4) = true →
      ∃ t, exec .leaseRenewalDue s = .next t ∧ Out.pin "QUEEN_OUT" true ∈ t.dev.out ∧
        t.dev.ha = { s.dev.ha with
          inForce := s.dev.ha.lease
          renewN := (s.dev.ha.renewN + 1) % two32
          renewAt := s.dev.now
          waiting := true
          queenOut := true
          queenAt := s.dev.now
          q7 := t.dev.ha.q7
          q6 := t.dev.ha.q6
          buffer := t.dev.ha.buffer } ∧
        (peerOpen s.dev = true → t.dev.ha.q7 = [] ∧
          ∃ d, Out.peer (startHeader (7 * 4096)) (peerBytes d 1 ((s.dev.ha.renewN + 1) % two32) s.dev.ha.seq 0) ∈ t.dev.out ∧
            d.ha.epoch = s.dev.ha.epoch ∧ d.ha.inForce = s.dev.ha.lease)) ∧
    (s.dev.ha.queenOut = true → expired s.dev s.dev.ha.queenAt (500 * us) = true →
      ∃ t, exec .queenOutFall s = .next t ∧ Out.pin "QUEEN_OUT" false ∈ t.dev.out ∧
        t.dev.ha = { s.dev.ha with queenOut := false }) ∧
    (isStandby s.dev = true → s.dev.ha.sawRenew = false → peerUp s.dev = true →
      expired s.dev s.dev.ha.annAt (leaseNow s.dev * ms / 4) = true →
      ∃ t, exec .announceDue s = .next t ∧
        t.dev.ha = { s.dev.ha with
          annAt := s.dev.now
          q7 := t.dev.ha.q7
          q6 := t.dev.ha.q6
          buffer := t.dev.ha.buffer } ∧
        (peerOpen s.dev = true → t.dev.ha.q7 = [] ∧
          Out.peer (startHeader (7 * 4096)) (peerBytes s.dev 3 0 s.dev.ha.seq 0) ∈ t.dev.out)) ∧
    (pairRuns s.dev = true → s.dev.ha.waiting = true → expired s.dev s.dev.ha.renewAt ms = true →
      ∃ t, exec .answerMiss s = .next t ∧ t.dev.ha = { s.dev.ha with waiting := false } ∧
        counterOf t.dev 0 (slotDie cntHaAnswerMiss) = (counterOf s.dev 0 (slotDie cntHaAnswerMiss) + 1) % two64) ∧
    (isHolder s.dev = true → pinsUp s.dev = true → pinReady s.dev s.dev.queen = true →
      mayRaise s.dev s.dev.ha.edgeAt ms = true → inTime s.dev = true →
      ∃ t, exec .queenInEdge s = .next t ∧ t.dev.queen.level = true ∧
        t.dev.ha = { s.dev.ha with
          edgeAt := some s.dev.now
          pinAt := some s.dev.now
          waiting := false
          ansAt := some s.dev.ha.renewAt }) ∧
    (isStandby s.dev = true → pinsUp s.dev = true → pinReady s.dev s.dev.queen = true →
      mayRaise s.dev s.dev.ha.edgeAt ms = true →
      ∃ t, exec .queenInEdge s = .next t ∧ t.dev.queen.level = true ∧ t.dev.ha.seenAt = s.dev.now ∧
        t.dev.ha.sawActive = true ∧ (answers s.dev = true → t.dev.ha.queenOut = true ∧ t.dev.ha.queenAt = s.dev.now) ∧
        counterOf t.dev 0 (slotDie cntHaRenewRx) = (counterOf s.dev 0 (slotDie cntHaRenewRx) + 1) % two64) ∧
    (pairRuns s.dev = true → pinsUp s.dev = true → s.dev.queen.level = false →
      mayRaise s.dev s.dev.ha.edgeAt ms = false →
      ∃ t, exec .queenInEdge s = .next t ∧ t.dev.ha = { s.dev.ha with edgeAt := some s.dev.now } ∧
        counterOf t.dev 0 (slotDie cntQueenEdgeReject) =
          (counterOf s.dev 0 (slotDie cntQueenEdgeReject) + 1) % two64) ∧
    (pinsUp s.dev = true → s.dev.queen.level = true →
      ∃ t, exec .queenInFall s = .next t ∧ t.dev.queen = { level := false, lowAt := some s.dev.now })

/-- Completion of the peer frames (R156 to R158, R634 to R649, R652). What the firmware reads in BODY fields is its own
(log entry 57). -/
def Obligations.PeerFramesComplete : Prop :=
  ∀ (s : State) (frame : List Byte) (h : PeerHdr), s.dev.dies.length = 8 → peerRx s.dev = true → h = peerHdr frame →
    (peerLayout frame = false → ∀ i bodies last, (i = .peerRxRenew frame ∨ i = .peerRxAnswer frame ∨
        i = .peerRxAnnounce frame ∨ i = .peerRxReceipt frame ∨ i = .peerRxJournal frame bodies ∨
        i = .peerRxSnapshot frame ⟨bodies, last⟩) →
      ∃ t, exec i s = .next t ∧ t.dev.ha = { s.dev.ha with inbox := s.dev.ha.inbox.erase frame } ∧
        counterOf t.dev 0 (slotDie cntPeerBad) = (counterOf s.dev 0 (slotDie cntPeerBad) + 1) % two64) ∧
    (peerLayout frame = true → peerKind frame = 3 → ∃ t, exec (.peerRxAnnounce frame) s = .next t ∧ t.dev.ha.sawAnnounce = true ∧ t.dev.ha.sawPeer = true ∧
      t.dev.ha.serial = h.serial.toNat ∧ t.dev.ha.peerFw = h.fw.toNat ∧ t.dev.ha.peerPref = h.preferred ∧
      t.dev.ha.peerHolds = h.holder) ∧
    (peerLayout frame = true → peerKind frame = 1 → s.dev.ha.holder = true →
      newer h.epoch.toNat s.dev.ha.epoch = true →
      ∃ t, exec (.peerRxRenew frame) s = .next t ∧ t.dev.ha.holder = false ∧ t.dev.ha.fenced = true ∧
        t.dev.ha.epoch = h.epoch.toNat ∧ t.dev.ha.sawRenew = true) ∧
    (peerLayout frame = true → peerKind frame = 1 → s.dev.ha.holder = false →
      (newer h.epoch.toNat s.dev.ha.seen = true ∨ h.epoch.toNat = s.dev.ha.seen) →
      ∃ t, exec (.peerRxRenew frame) s = .next t ∧ t.dev.ha.holder = false ∧ t.dev.ha.seen = h.epoch.toNat ∧
        t.dev.ha.seenAt = s.dev.now ∧ t.dev.ha.peerLease = h.lease.toNat ∧ t.dev.ha.peerAt = some s.dev.now) ∧
    (peerLayout frame = true → peerKind frame = 2 → h.number.toNat = s.dev.ha.renewN →
      h.epoch.toNat = s.dev.ha.epoch → inTime s.dev = true →
      ∃ t, exec (.peerRxAnswer frame) s = .next t ∧ t.dev.ha.waiting = false ∧
        t.dev.ha.ansAt = some s.dev.ha.renewAt ∧ t.dev.ha.peerAt = some s.dev.now) ∧
    (peerLayout frame = true → peerKind frame = 4 → s.dev.ha.holder = true → s.dev.ha.sync = .inSync →
      h.holder = false → h.sync = 3 → h.fw.toNat = s.dev.fwVersion →
      ∃ t, exec (.peerRxReceipt frame) s = .next t ∧ t.dev.ha.peerAt = some s.dev.now ∧
        t.dev.ha.recvd = max s.dev.ha.recvd h.received.toNat ∧
        t.dev.ha.applied = max s.dev.ha.applied h.seq.toNat ∧
        t.dev.ha.buffer = s.dev.ha.buffer.filter fun e => decide (h.seq.toNat < e.1)) ∧
    (∀ n b, peerLayout frame = true → peerKind frame = 5 → peerSeqs frame = some [n] → s.dev.ha.holder = false →
      s.dev.ha.sync = .inSync → h.fw.toNat = s.dev.fwVersion →
      ∃ t, exec (.peerRxJournal frame [b]) s = .next t ∧
        (n = s.dev.ha.seq + 1 → t.dev.ha.seq = n ∧ t.dev.ha.applied = n) ∧
        (n ≠ s.dev.ha.seq + 1 → t.dev.ha.sync = .stale ∧ t.dev.ha.cause = 9 ∧ t.dev.ha.seq = s.dev.ha.seq)) ∧
    (∀ n b last, peerLayout frame = true → peerKind frame = 6 → peerSeqs frame = some [n] → s.dev.ha.holder = false →
      s.dev.ha.sync = .resyncing → h.fw.toNat = s.dev.fwVersion → s.dev.ha.based = false →
      ∃ t, exec (.peerRxSnapshot frame ⟨[b], last⟩) s = .next t ∧ t.dev.ha.based = true ∧ t.dev.ha.seq = n ∧
        t.dev.ha.lastSnap = (s.dev.ha.lastSnap || last))

/-- Completion of the events that fence, take over, hand over and resynchronise (R639 to R644, R648 to R658). -/
def Obligations.RoleChangesComplete : Prop :=
  ∀ s : State,
    (∀ u, isHolder s.dev = true → s.dev.ha.ansAt = some u → expired s.dev u ((s.dev.ha.inForce - 1) * ms) = true →
      ∃ t, exec .leaseExpiryFence s = .next t ∧
        t.dev.ha = { s.dev.ha with
          holder := false
          fenced := true
          handover := false
          newer := false
          soloOk := true
          sync := .stale
          cause := 0
          staleAt := s.dev.now
          buffer := []
          q6 := [] }) ∧
    (mayTake s.dev = true → s.dev.ha.sync = .inSync →
      expired s.dev s.dev.ha.seenAt ((leaseNow s.dev + 2) * ms) = true →
      ∃ t, exec .leaseTakeover s = .next t ∧ t.dev.ha.holder = true ∧ t.dev.ha.fenced = false ∧
        t.dev.ha.epoch = nextEpoch s.dev.ha.seen ∧ t.dev.ha.renewAt = s.dev.now ∧ t.dev.ha.waiting = true) ∧
    (mayTake s.dev = true → s.dev.readyOnce = true → s.dev.ha.preferred = true →
      (∀ u, s.dev.ha.activeAt = some u → u < s.dev.ha.readyAt) →
      (s.dev.ha.sawAnnounce = true ∨ ∀ u, s.dev.ha.frameAt = some u → u < s.dev.ha.readyAt) →
      expired s.dev s.dev.ha.readyAt (2 * (leaseNow s.dev + 2) * ms) = true →
      ∃ t, exec .formationTakeover s = .next t ∧ t.dev.ha.holder = true ∧ t.dev.ha.fenced = false ∧
        t.dev.ha.epoch = nextEpoch s.dev.ha.seen ∧ t.dev.ha.renewAt = s.dev.now) ∧
    (mayTake s.dev = true → s.dev.ha.soloOk = true → s.dev.ha.newer = false →
      mayRaise s.dev s.dev.ha.ansAt (2 * (s.dev.ha.inForce + 2) * ms) = true →
      mayRaise s.dev s.dev.ha.peerAt (2 * (s.dev.ha.inForce + 2) * ms) = true →
      shellHeard s.dev (2 * (s.dev.ha.inForce + 2) * ms) = true →
      ∃ t, exec .soloResumption s = .next t ∧ t.dev.ha.holder = true ∧ t.dev.ha.fenced = false ∧
        t.dev.ha.epoch = nextEpoch s.dev.ha.seen ∧ t.dev.ha.renewAt = s.dev.now) ∧
    (isHolder s.dev = true → journaling s.dev = true → 10 * ms ≤ lagOf s.dev →
      ∃ t, exec .journalLagStale s = .next t ∧ t.dev.ha.sync = .stale ∧ t.dev.ha.cause = 2 ∧
        t.dev.ha.buffer = [] ∧ t.dev.ha.q6 = [] ∧ t.dev.ha.handover = false) ∧
    (isStandby s.dev = true → s.dev.ha.auto = true → s.dev.ha.sync = .stale → holderNear s.dev = true →
      ∃ t, exec .resyncAutoStart s = .next t ∧ t.dev.ha.sync = .resyncing ∧ t.dev.ha.based = false ∧
        t.dev.actions = [] ∧
        ∀ n, n < s.dev.dies.length → alive s.dev n = true →
          (dieOf t.dev n).mac = (dieOf s.dev n).mac.filter fun e => e.2.static) ∧
    (isStandby s.dev = true → s.dev.ha.sync = .resyncing → s.dev.ha.lastSnap = true →
      ∃ t, exec .resyncComplete s = .next t ∧ t.dev.ha.sync = .inSync ∧ t.dev.ha.cause = 0 ∧
        t.dev.ha.inSyncAt = s.dev.now) ∧
    (isHolder s.dev = true → s.dev.ha.handover = true → s.dev.ha.sync = .inSync → s.dev.ha.buffer = [] →
      ∃ t, exec .handoverFence s = .next t ∧ t.dev.ha.holder = false ∧ t.dev.ha.fenced = true ∧
        t.dev.ha.seq = s.dev.ha.seq + 1 ∧ t.dev.ha.buffer = []) ∧
    (isHolder s.dev = true → s.dev.ha.preferred = false → s.dev.ha.peerPref = true → s.dev.ha.sync = .inSync →
      peerUp s.dev = true → s.dev.ha.holdDown ≠ 0 →
      expired s.dev s.dev.ha.inSyncAt (s.dev.ha.holdDown * sec) = true →
      ∃ t, exec .failbackHoldDown s = .next t ∧ t.dev = { s.dev with ha := { s.dev.ha with handover := true } }) ∧
    (pairRuns s.dev = true → follows s.dev = true → peerUp s.dev = true →
      expired s.dev s.dev.ha.receiptAt (100 * us) = true →
      ∃ t, exec .receiptDue s = .next t ∧
        t.dev.ha = { s.dev.ha with
          receiptAt := s.dev.now
          q7 := t.dev.ha.q7
          q6 := t.dev.ha.q6
          buffer := t.dev.ha.buffer } ∧
        (peerOpen s.dev = true → t.dev.ha.q7 = [] ∧
          Out.peer (startHeader (7 * 4096)) (peerBytes s.dev 4 0 s.dev.ha.applied s.dev.ha.recvd) ∈ t.dev.out))

/-- Completion of the MEM_ commands (R605, R621 to R623, R627 to R629). -/
def Obligations.MemoryCommandsComplete : Prop :=
  ∀ (s : State) (c : Cmd), s.dev.dies.length = 8 →
    (Accepted s c (specMemScrubSet s.dev c.params) = true →
      ∃ t, exec (.memScrubSet c) s = .next t ∧ Answered s t c 0x0A01 { status := stOk } ∧
        ∀ n, n < 8 → bitOf (pf c.params 0 1) n = true →
          (dieOf t.dev n).scrub = [pf c.params 2 2, pf c.params 4 2, pf c.params 6 2]) ∧
    (Accepted s c (specMemLogRead c.die s.dev c.params) = true →
      ∃ t, exec (.memLogRead c) s = .next t ∧
        Answered s t c 0x0A02 (okResult (
          leBytes 1 (logOf s.dev (pf c.params 0 1) (pf c.params 1 1)).entries.length ++ leBytes 3 0
            ++ leBytes 4 (logOf s.dev (pf c.params 0 1) (pf c.params 1 1)).overflow)) ∧
        logOf t.dev (pf c.params 0 1) (pf c.params 1 1) =
          if bitOf (pf c.params 2 1) 0 then
            { logOf s.dev (pf c.params 0 1) (pf c.params 1 1) with
              entries := []
              overflow := 0 }
          else logOf s.dev (pf c.params 0 1) (pf c.params 1 1)) ∧
    (Accepted s c (specMemRetire s.dev c.params) = true →
      ∃ t, exec (.memRetire c) s = .next t ∧
        (pf c.params 1 1 = 0 →
          pf c.params 4 4 ∈ (dieOf t.dev (pf c.params 0 1)).pagesRetired ∧
          Answered s t c 0x0A03 (okResult (
            leBytes 1 (atBit 0 ((dieOf s.dev (pf c.params 0 1)).pagesUsed.contains (pf c.params 4 4)))))) ∧
        (pf c.params 1 1 = 1 →
          pf c.params 4 4 ∈ (dieOf t.dev (pf c.params 0 1)).comb.retired ∧
          Answered s t c 0x0A03 (okResult (
            leBytes 1 (atBit 0 (groupHeld (dieOf s.dev (pf c.params 0 1)).comb (pf c.params 4 4))))))) ∧
    (Accepted s c (specMemStatus s.dev c.params) = true →
      ∃ t, exec (.memStatus c) s = .next t ∧ body t.dev = body s.dev ∧
        Answered s t c 0x0A04 (okResult (
          let x := dieOf s.dev (pf c.params 0 1)
          leBytes 4 (min (x.passes.getD 0 0) (x.passes.getD 1 0)) ++ leBytes 4 (x.passes.getD 2 0)
            ++ leBytes 4 (min (x.passes.getD 3 0) (min (x.passes.getD 4 0) (x.passes.getD 5 0)))
            ++ leBytes 4 x.pagesRetired.length ++ leBytes 2 x.comb.retired.length
            ++ leBytes 1 (atBit 0 x.mbHalt + atBit 1 (x.halted.contains 1) + atBit 2 (x.halted.contains 2)
              + atBit 3 (x.halted.contains 3))
            ++ leBytes 1 0 ++ leBytes 4 (x.pagesRetired.filter x.pagesUsed.contains).length
            ++ leBytes 2 (x.comb.retired.filter (groupHeld x.comb)).length))) ∧
    (Accepted s c (specMemChannelRestart s.dev c.params) = true →
      ∃ t, exec (.memChannelRestart c) s = .next t ∧ Answered s t c 0x0A05 { status := stOk } ∧
        (dieOf t.dev (pf c.params 0 1)).halted =
          (dieOf s.dev (pf c.params 0 1)).halted.filter fun k => k != pf c.params 1 1)

/-- Completion of Keeper traps and restarts, of the mirror rebuild, of the repairs that firmware makes, of the
forager's walk and of a DMA channel's halt (R566, R568, R603, R606 to R609, R612 to R620). -/
def Obligations.KeeperAndForagerComplete : Prop :=
  ∀ s : State, s.dev.dies.length = 8 → ∀ n, alive s.dev n = true →
    (∀ cause, cause ≤ 4 → s.dev.run = .running →
      ((dieOf s.dev n).keeper = .running ∨ (dieOf s.dev n).keeper = .restarting) →
      ((dieOf s.dev n).traps.filter fun u => decide (s.dev.now < u + sec)).length < 3 →
      (n ≠ 0 ∨ mirrorComplete s.dev = true) →
      (∃ t, exec (.keeperTrap n cause) s = .next t ∧ (dieOf t.dev n).keeper = .restarting ∧
        (dieOf t.dev n).trapCause = cause) ∧
      (∃ t, exec (.firmwareWatchdogExpiry n) s = .next t ∧ (dieOf t.dev n).keeper = .restarting ∧
        (dieOf t.dev n).trapCause = 1)) ∧
    (∀ cause, cause ≤ 4 → s.dev.run = .running → n ≠ 0 →
      ((dieOf s.dev n).keeper = .running ∨ (dieOf s.dev n).keeper = .restarting) →
      3 ≤ ((dieOf s.dev n).traps.filter fun u => decide (s.dev.now < u + sec)).length →
      ∃ t, exec (.keeperTrap n cause) s = .next t ∧ (dieOf t.dev n).lost = true) ∧
    (∀ word badImages, (dieOf s.dev n).keeper = .restarting → s.dev.run = .running → n ∉ badImages →
      ∃ t, exec (.keeperRestartDone ⟨n, word, .none, badImages⟩) s = .next t ∧ (dieOf t.dev n).keeper = .running ∧
        (dieOf t.dev n).restarts = ((dieOf s.dev n).restarts + 1) % two32 ∧
        (dieOf t.dev n).lastRestart = grainOf s.dev ∧ (dieOf t.dev n).late = [] ∧
        ((dieOf s.dev n).late = [] → (dieOf t.dev n).tab = t.dev.master ∧
          t.dev.master = if n = 0 then s.dev.mirror else s.dev.master)) ∧
    (mirrorDie s.dev = some n → (dieOf s.dev n).keeper = .running → (dieOf s.dev 0).keeper = .running →
      ∃ t, exec .mirrorRebuildDone s = .next t ∧
        t.dev = { s.dev with
          mirror := s.dev.master
          mirrorOk := true }) ∧
    ((dieOf s.dev n).comb.listBroken = true → (dieOf s.dev n).keeper = .running →
      ∃ t, exec (.freeListRebuild n) s = .next t ∧ (dieOf t.dev n).comb.listBroken = false ∧
        (dieOf t.dev n).comb.audit = true) ∧
    (∀ p, (portOf s.dev p).creditStop = true →
      ∃ t, exec (.creditRecount p) s = .next t ∧ (portOf t.dev p).creditStop = false ∧
        (portOf t.dev p).sent = ((s.dev.copies.filter fun c => c.port == p).map (·.ncells)).sum) ∧
    (∀ m errs badImages, m < 6 → s.dev.run = .running → (dieOf s.dev n).walk.length = 6 →
      (expired s.dev ((dieOf s.dev n).walkAt.getD m 0) sec = true ∧ agingForced s.dev n = false ∨
        expired s.dev ((dieOf s.dev n).walkAt.getD m 0) 0 = true ∧ s.dev.pkg.engaged = false ∧
          forcedBelow s.dev n 6 = false ∧ waitsBelow s.dev n 4 = false) →
      (∀ e ∈ errs, ∃ syn, e.2 = MemErr.ce syn) →
      ∃ t, exec (.foragerLine n m errs badImages) s = .next t ∧
        (dieOf t.dev n).walk.getD m 0 =
          (if walkLines m ≤ (dieOf s.dev n).walk.getD m 0 + 1 then 0 else (dieOf s.dev n).walk.getD m 0 + 1) ∧
        counterOf t.dev n (slotDie (cntMemCe + m)) % two64 = (counterOf s.dev n (slotDie (cntMemCe + m))
          + ((List.range 8).filter fun k => kget errs k .none != .none).length) % two64) ∧
    (∀ cause, cause ≤ 2 → (dieOf s.dev n).mbHalt = false →
      ∃ t, exec (.dmaReadError n 0 cause) s = .next t ∧ (dieOf t.dev n).mbHalt = true ∧
        bitOf (dieOf t.dev n).cause.toNat intMbHalt = true) ∧
    (∀ k cause, 0 < k → k ≤ 3 → cause ≤ 2 → k ∉ (dieOf s.dev n).halted →
      ∃ t, exec (.dmaReadError n k cause) s = .next t ∧ k ∈ (dieOf t.dev n).halted)

/-- Completion of the SEC_ commands that read (R690, R691, R694). The statement and the fuse bytes stand in host memory
when the completion is written. -/
def Obligations.SecurityReadsComplete : Prop :=
  ∀ (s : State) (c : Cmd), Memory.wf s.dev.mem = true →
    (Accepted s c (specSecAttest c.die s.aon c.params) = true →
      ∃ t d, exec (.secAttest c) s = .next t ∧ t.pending = s.pending ∧ t.aon = s.aon ∧ body t.dev = body s.dev ∧
        t.dev = complete d c 0x0B01 0 { status := stOk } ∧
        memRead d.mem (pf c.params 32 8) 576 = attestBody s.aon s.dev (pbytes c.params 0 32)
          ++ padTo 96 (Config.attestSignature (attestBody s.aon s.dev (pbytes c.params 0 32)))) ∧
    (Accepted s c (specSecFlashStatus s.aon) = true →
      ∃ t, exec (.secFlashStatus c) s = .next t ∧ body t.dev = body s.dev ∧
        Answered s t c 0x0B04 (okResult (leBytes 1 s.aon.fwRun ++ leBytes 1 s.aon.cfgRun ++ leBytes 1 s.aon.fwValid
          ++ leBytes 1 s.aon.cfgValid ++ leBytes 4 (seqOfCopy (fwCopy s.aon 0)) ++ leBytes 4 (seqOfCopy (fwCopy s.aon 1))
          ++ leBytes 4 (seqOfCopy (cfgCopy s.aon 0)) ++ leBytes 4 (seqOfCopy (cfgCopy s.aon 1)) ++ leBytes 1 0))) ∧
    (Accepted s c (specSecFuseRead c.die s.aon s.dev c.params) = true →
      ∃ t d, exec (.secFuseRead c) s = .next t ∧ t.pending = s.pending ∧ t.aon = s.aon ∧ body t.dev = body s.dev ∧
        t.dev = complete d c 0x0B05 0 { status := stOk } ∧
        memRead d.mem (pf c.params 16 8) (pf c.params 4 4) =
          slice (fuseContent s.aon (pf c.params 0 1) (pf c.params 1 1)) (pf c.params 8 4) (pf c.params 4 4))

/-- Completion of the SEC_ commands that write the flash and the fuses (R688, R692 to R695, R595). A written copy stands
in its slot when it was read back right, and the slot is empty otherwise. -/
def Obligations.SecurityWritesComplete : Prop :=
  ∀ (s : State) (c : Cmd), s.aon.flash.length = 4 →
    (∀ image ok failed d0, Accepted s c (specSecFwWrite s.aon s.dev c.params image) = true →
      bitOf (pf c.params 0 1) 0 = false →
      ∃ t k, exec (.secFwWrite c image ⟨ok, failed, d0⟩) s = .next t ∧ k < 2 ∧
        k = targetSlot (judgeFw s.aon s.dev.part) (seqOfCopy (fwCopy s.aon 0)) (seqOfCopy (fwCopy s.aon 1)) ∧
        fwCopy t.aon k = (if ok then padTo (pf c.params 4 4) image else []) ∧
        fwCopy t.aon (1 - k) = fwCopy s.aon (1 - k) ∧ t.aon.fwValid = judgeFw t.aon s.dev.part ∧
        ∃ d, t.dev = complete d c 0x0B02 0 (if ok then
          okResult (leBytes 1 k ++ leBytes 3 0 ++ leBytes 4 (seqOfCopy (padTo (pf c.params 4 4) image)))
          else { status := stInternal })) ∧
    (∀ image failed d0, Accepted s c (specSecFwWrite s.aon s.dev c.params image) = true →
      bitOf (pf c.params 0 1) 0 = true →
      ∃ t k, exec (.secFwWrite c image ⟨true, failed, d0⟩) s = .next t ∧ k < 2 ∧
        k = targetSlot (judgeFw s.aon s.dev.part) (seqOfCopy (fwCopy s.aon 0)) (seqOfCopy (fwCopy s.aon 1)) ∧
        fwCopy t.aon k = padTo (pf c.params 4 4) image ∧ t.aon.fwRun = k ∧
        t.dev.run = if d0 then .haltedStart else .running) ∧
    (∀ block ok, Accepted s c (specSecCfgWrite s.aon s.dev c.params block) = true →
      ∃ t k, exec (.secCfgWrite c block ok) s = .next t ∧ k < 2 ∧
        k = targetSlot (judgeCfg s.aon s.dev.part) (seqOfCopy (cfgCopy s.aon 0)) (seqOfCopy (cfgCopy s.aon 1)) ∧
        cfgCopy t.aon k = (if ok then padTo cfgLen block else []) ∧
        cfgCopy t.aon (1 - k) = cfgCopy s.aon (1 - k) ∧ t.aon.cfgValid = judgeCfg t.aon s.dev.part ∧
        ∃ d, t.dev = complete d c 0x0B03 0 (if ok then
          okResult (leBytes 1 k ++ leBytes 3 0 ++ leBytes 4 (seqOfCopy (padTo cfgLen block)))
          else { status := stInternal })) ∧
    (∀ digest, Accepted s c (specSecFuseProgram s.aon s.dev c.params digest) = true →
      ∃ t, exec (.secFuseProgram c digest) s = .next t ∧ s.aon.lock = false ∧ fuseEnabled s.aon s.dev = true ∧
        t.aon = { s.aon with
          fuseEn := none
          opKey := if pf c.params 0 1 = 5 then some (BitVec.ofNat 384 (ofBe (padTo 48 digest))) else s.aon.opKey
          rollback := if pf c.params 0 1 = 6 then pf c.params 8 8 else s.aon.rollback
          dbgDisable := if pf c.params 0 1 = 7 then true else s.aon.dbgDisable } ∧
        ∃ d, t.dev = complete d c 0x0B06 0 { status := stOk })

/-- Completion of the doorbells, of the mailbox restart and of the indirect window (R541 to R544, R571, R582 to R587). -/
def Obligations.DoorbellsAndWindowComplete : Prop :=
  ∀ s : State, s.dev.dies.length = 8 → ∀ n, (∀ x ∈ s.dev.dies, x.rings.length = 8) →
    (∀ k (v : Word), regsUp s.dev n = true → (dieOf s.dev n).ready = true → k < 8 →
      (ringOf s.dev n k).enable = true →
      (∃ t, exec (.cmdDbWrite n k v) s = .next t ∧
        ((v.toNat % two16 + two16 - (ringOf s.dev n k).fetch) % two16 ≤ 256 →
          ringOf t.dev n k = { ringOf s.dev n k with prod := v.toNat % two16 }) ∧
        (256 < (v.toNat % two16 + two16 - (ringOf s.dev n k).fetch) % two16 →
          ringOf t.dev n k = { ringOf s.dev n k with
            full := true
            fullAt := some s.dev.now } ∧
          bitOf (dieOf t.dev n).cause.toNat intFull = true)) ∧
      (∃ t, exec (.cplDbWrite n k v) s = .next t ∧
        ringOf t.dev n k = { ringOf s.dev n k with cons := v.toNat % two16 })) ∧
    (∀ v : Word, regsUp s.dev n = true → (dieOf s.dev n).ready = true → (dieOf s.dev n).evt.enable = true →
      ((v.toNat % two16 + two16 - (dieOf s.dev n).evt.write) % two16 = 0 ∨
        64512 < (v.toNat % two16 + two16 - (dieOf s.dev n).evt.write) % two16) →
      ∃ t, exec (.evtDbWrite n v) s = .next t ∧ (dieOf t.dev n).evt.cons = v.toNat % two16) ∧
    (∀ v : Word, regsUp s.dev n = true → (dieOf s.dev n).mbHalt = true → bitOf v.toNat 0 = true →
      ∃ t, exec (.mbCtrlRestart n v) s = .next t ∧ (dieOf t.dev n).mbHalt = false) ∧
    (∀ v : Word, regsUp s.dev n = true →
      ∃ t, exec (.indDataWrite n v) s = .next t ∧
        let waiting := (dieOf s.dev n).indQ.countP fun w => match w with
          | .data _ => true
          | _ => false
        (waiting < 8 → dieOf t.dev n = { dieOf s.dev n with indQ := (dieOf s.dev n).indQ ++ [.data v] }) ∧
        (8 ≤ waiting → dieOf t.dev n = { dieOf (indStep s.dev n) n with
          indQ := (dieOf (indStep s.dev n) n).indQ ++ [.data v] })) ∧
    (regsUp s.dev n = true → (dieOf s.dev n).indQ = [] →
      ∃ t, exec (.indDataRead n) s = .next t ∧
        t.dev.out = .indRead n (BitVec.ofNat 32 (indWord s.dev n (dieOf s.dev n).indAddr)) :: s.dev.out ∧
        (dieOf t.dev n).indErr = ((dieOf s.dev n).indErr || !indMapped n (dieOf s.dev n).indAddr) ∧
        (dieOf t.dev n).indAddr = (autoIncrement (dieOf s.dev n)).indAddr) ∧
    (∀ a v r, alive s.dev n = true → (dieOf s.dev n).indQ = .data v :: r → (dieOf s.dev n).indAddr = a →
      (indClass s.dev n = .ringOn →
        ∃ t, exec (.ringEnable n) s = .next t ∧
          ringOf t.dev n (a / 32) = { ringOf s.dev n (a / 32) with
            enable := true
            vector := bitsOf v.toNat 8 5
            prod := 0
            fetch := 0
            write := 0
            cons := 0
            full := false
            epoch := (ringOf s.dev n (a / 32)).epoch + 1 }) ∧
      (indClass s.dev n = .ringOff →
        ∃ t, exec (.ringDisable n) s = .next t ∧ (ringOf t.dev n (a / 32)).enable = false ∧
          ∀ p ∈ t.dev.pends, ¬(p.die = n ∧ p.ring = a / 32)) ∧
      (indClass s.dev n = .evtOn →
        ∃ t, exec (.evtRingEnable n) s = .next t ∧ (dieOf t.dev n).evt.enable = true ∧
          (dieOf t.dev n).evt.cons = 0 ∧ (dieOf t.dev n).evt.vector = bitsOf v.toNat 8 5) ∧
      (indClass s.dev n = .evtOff →
        ∃ t, exec (.evtRingDisable n) s = .next t ∧ (dieOf t.dev n).evt.enable = false) ∧
      (∀ k, k < 8 → a = 32 * k → (ringOf s.dev n k).enable = false →
        ∃ t, exec (.indirectWriteEffect n) s = .next t ∧
          ringOf t.dev n k = { ringOf s.dev n k with
            cmdBase := (ringOf s.dev n k).cmdBase / two32 * two32 + v.toNat / 4096 * 4096 }) ∧
      (indMapped n a = false → r = [] →
        ∃ t, exec (.indirectWriteEffect n) s = .next t ∧ (dieOf t.dev n).indErr = true ∧
          (dieOf t.dev n).indQ = [] ∧ (dieOf t.dev n).indAddr = (autoIncrement (dieOf s.dev n)).indAddr))

/-- Completion of the other direct registers, of the pool tails, of MSI-X and of function-level resets (R14, R578 to R580,
R589, R593). -/
def Obligations.RegistersComplete : Prop :=
  ∀ s : State, s.dev.dies.length = 8 → ∀ n, regsUp s.dev n = true →
    (∀ fn off v, off % 4 = 0 →
      ∃ t, exec (.registerWrite n fn off v 15) s = .next t ∧ t.pending = s.pending ∧
        (fn = .pf0 → off = 0x200 → (dieOf t.dev n).cause =
          (dieOf s.dev n).cause &&& (~~~(BitVec.ofNat 14 v.toNat) |||
            if (dieOf s.dev n).causeAt = s.dev.now then (dieOf s.dev n).causeNew else 0)) ∧
        (∀ k, fn = .pf0 → off = 0x1A4 → (ringOf t.dev n k).full = ((ringOf s.dev n k).full &&
          (!bitOf v.toNat k || (ringOf s.dev n k).fullAt == some s.dev.now))) ∧
        (∀ r, r < 16 → fn = .pf1 → off = 64 * r + 0x10 →
          (pRingOf (dieOf t.dev n) (.punt r)).overrun = ((pRingOf (dieOf s.dev n) (.punt r)).overrun &&
            (!bitOf v.toNat 1 || (pRingOf (dieOf s.dev n) (.punt r)).overrunAt == some s.dev.now))) ∧
        (fn = .pf0 → off = 0x208 → (dieOf t.dev n).directVec = v.toNat % 32) ∧
        (fn = .pf0 → off = 0x600 → (dieOf s.dev n).indQ = [] →
          (dieOf t.dev n).indAddr = v.toNat / 4 * 4 ∧ (dieOf t.dev n).indQ = []) ∧
        (∀ w r, fn = .pf0 → off = 0x600 → (dieOf s.dev n).indQ = .data w :: r →
          dieOf t.dev n = { dieOf s.dev n with indQ := (dieOf s.dev n).indQ ++ [.addr v.toNat] })) ∧
    (∀ fn off v be, be ≠ 15 → exec (.registerWrite n fn off v be) s = .next s) ∧
    (∀ r k (v : Word), k < 3 → fnUp s.dev n (ringFn r) = true → (pRingOf (dieOf s.dev n) r).tail.length = 3 →
      ∃ t, exec (.poolTailWrite n r k v) s = .next t ∧
        ((v.toNat + two32 - (pRingOf (dieOf s.dev n) r).taken.getD k 0) % two32 ≤
            2 ^ (pRingOf (dieOf s.dev n) r).log2 →
          (pRingOf (dieOf t.dev n) r).tail.getD k 0 = v.toNat) ∧
        (2 ^ (pRingOf (dieOf s.dev n) r).log2 <
            (v.toNat + two32 - (pRingOf (dieOf s.dev n) r).taken.getD k 0) % two32 →
          pRingOf (dieOf t.dev n) r = { pRingOf (dieOf s.dev n) r with
            overrun := true
            overrunAt := some s.dev.now })) ∧
    (∀ r (v : Word), fnUp s.dev n (ringFn r) = true →
      ∃ t, exec (.cplConsWrite n r v) s = .next t ∧
        ((v.toNat + two32 - (pRingOf (dieOf s.dev n) r).cons) % two32 ≤
            ((pRingOf (dieOf s.dev n) r).write + two32 - (pRingOf (dieOf s.dev n) r).cons) % two32 →
          pRingOf (dieOf t.dev n) r = { pRingOf (dieOf s.dev n) r with cons := v.toNat }) ∧
        (((pRingOf (dieOf s.dev n) r).write + two32 - (pRingOf (dieOf s.dev n) r).cons) % two32 <
            (v.toNat + two32 - (pRingOf (dieOf s.dev n) r).cons) % two32 →
          pRingOf (dieOf t.dev n) r = { pRingOf (dieOf s.dev n) r with
            overrun := true
            overrunAt := some s.dev.now })) ∧
    (∀ fn v, fnUp s.dev n fn = true →
      ∃ t, exec (.msixVectorUnmask n fn v) s = .next t ∧ (vecOf (dieOf t.dev n) fn v).masked = false ∧
        ((vecOf (dieOf s.dev n) fn v).due = false → t.dev.out = s.dev.out) ∧
        ((vecOf (dieOf s.dev n) fn v).due = true → mayRaise s.dev (vecOf (dieOf s.dev n) fn v).lastAt us = true →
          (vecOf (dieOf t.dev n) fn v).due = false ∧
          t.dev.out = .msix n fn v (vecOf (dieOf s.dev n) fn v).addr (vecOf (dieOf s.dev n) fn v).data :: s.dev.out)) ∧
    (∀ fn v, 0 < (vecOf (dieOf s.dev n) fn v).p → (vecOf (dieOf s.dev n) fn v).masked = false →
      expired s.dev (vecOf (dieOf s.dev n) fn v).since ((vecOf (dieOf s.dev n) fn v).time * us) = true →
      mayRaise s.dev (vecOf (dieOf s.dev n) fn v).lastAt us = true →
      ∃ t, exec (.msixCoalesceTimeout n fn v) s = .next t ∧ (vecOf (dieOf t.dev n) fn v).p = 0 ∧
        t.dev.out = .msix n fn v (vecOf (dieOf s.dev n) fn v).addr (vecOf (dieOf s.dev n) fn v).data :: s.dev.out) ∧
    (∃ t, exec (.pf0Flr n) s = .next t ∧ (∀ k, k < 8 → (ringOf t.dev n k).enable = false) ∧
      (dieOf t.dev n).evt.enable = false ∧ (dieOf t.dev n).cause = 0 ∧ (dieOf t.dev n).intEn = 0 ∧
      (dieOf t.dev n).directVec = 31) ∧
    (∃ t, exec (.pf1VfFlr n .pf1) s = .next t ∧
      (∀ r, (pRingOf (dieOf t.dev n) (.punt r)).enable = false) ∧
      ∀ j, pRingOf (dieOf t.dev n) (.tap j) = pRingOf (dieOf s.dev n) (.tap j)) ∧
    (∀ j, ∃ t, exec (.pf1VfFlr n (.vf j)) s = .next t ∧ (pRingOf (dieOf t.dev n) (.tap j)).enable = false ∧
      ∀ r, pRingOf (dieOf t.dev n) (.punt r) = pRingOf (dieOf s.dev n) (.punt r))

/-- Completion of the service lock and of the guard sequence (R594 to R597). -/
def Obligations.GuardComplete : Prop :=
  ∀ s : State,
    (∀ n (v : Word), regsUp s.dev n = true → bitOf v.toNat 0 = true →
      ∃ t, exec (.lockWrite n v) s = .next t ∧ t.dev = s.dev ∧ t.pending = s.pending ∧ t.aon.lock = true ∧
        t.aon.armed = none ∧ t.aon.fuseEn = none ∧ t.aon.override = s.aon.override ∧ t.aon.park = s.aon.park ∧
        t.aon.force = s.aon.force) ∧
    (∀ v : Word, regsUp s.dev 0 = true →
      ∃ t, exec (.guardAWrite v) s = .next t ∧ t.dev = s.dev ∧ t.pending = s.pending ∧
        (s.aon.lock = true → t.aon = { s.aon with
            lockedF := true
            lockedAt := some (aonCycle s.dev.now) }) ∧
        (s.aon.lock = false → t.aon.armed = some (v, s.aon.sel, s.dev.now)) ∧
        (s.aon.lock = false → s.aon.armed = none → t.aon.fails = s.aon.fails ∧ t.aon.failF = s.aon.failF) ∧
        (s.aon.lock = false → s.aon.armed.isSome = true →
          t.aon.fails = (s.aon.fails + 1) % two16 ∧ t.aon.failF = true)) ∧
    (∀ v : Word, regsUp s.dev 0 = true →
      (s.aon.lock = true →
        ∃ t, exec (.guardBFailedWrite v) s = .next t ∧ t.dev = s.dev ∧
          t.aon = { s.aon with
            lockedF := true
            lockedAt := some (aonCycle s.dev.now) }) ∧
      (s.aon.lock = false → guardOver s = false → guardWrites s v = none →
        ∃ t, exec (.guardBFailedWrite v) s = .next t ∧ t.dev = s.dev ∧
          t.aon = { s.aon with
            armed := none
            failF := true
            failAt := some (aonCycle s.dev.now)
            fails := (s.aon.fails + 1) % two16 })) ∧
    (∀ x, s.aon.armed = some x → guardOver s = true →
      ∃ t, exec .guardWindowExpiry s = .next t ∧ t.dev = s.dev ∧
        t.aon = { s.aon with
          armed := none
          failF := true
          failAt := some (aonCycle x.2.2 + 64)
          fails := (s.aon.fails + 1) % two16 }) ∧
    (∀ off v, regsUp s.dev 0 = true → (off = 0x320 ∨ off = 0x324 ∨ off = 0x328 ∨ off = 0x32C) →
      ∃ t, exec (.guardedDirectWrite off v) s = .next t ∧ t.dev = s.dev ∧
        t.aon = { s.aon with fails := (s.aon.fails + 1) % two16 }) ∧
    (∀ u, s.aon.fuseEn = some u → expired s.dev u (10 * sec) = true →
      ∃ t, exec .fuseProgEnTimeout s = .next t ∧ t.dev = s.dev ∧ t.aon = { s.aon with fuseEn := none })

/-- Completion of the sequences that write the four guarded registers (R480, R489, R595, R596, R645): the service lock is
open, a sequence on the register is armed with VALUE less than 64 AON cycles ago, the reserved bits of VALUE are 0, and
GUARD_B takes the complement of VALUE. -/
def Obligations.GuardedControlsComplete : Prop :=
  ∀ (s : State) (v : Word) (at' : Nat), s.dev.dies.length = 8 → regsUp s.dev 0 = true → s.aon.lock = false →
    aonCycle s.dev.now < aonCycle at' + 64 →
    (s.aon.armed = some (v, 1, at') → v.toNat < 2 →
      ∃ t, exec (.powerCapOverride (~~~v)) s = .next t ∧ t.pending = s.pending ∧
        t.aon = { s.aon with
          armed := none
          doneF := true
          doneAt := some (aonCycle s.dev.now)
          override := bitOf v.toNat 0 } ∧
        t.dev = { s.dev with pkg := { s.dev.pkg with
          override := bitOf v.toNat 0
          k := if bitOf v.toNat 0 then 0 else s.dev.pkg.k } } ∧
        (bitOf v.toNat 0 = true →
          capEffOf t.dev = 20 * if s.dev.pkg.capNow = 0 then partPower s.dev.part else s.dev.pkg.capNow)) ∧
    (s.aon.armed = some (v, 2, at') → v.toNat < 256 → v.toNat % 2 = 0 → parksMore s.aon s.dev v.toNat = true →
      s.dev.run = .running →
      ∃ t, exec (.diePark (~~~v)) s = .next t ∧ t.pending = s.pending ∧
        t.aon = { s.aon with
          armed := none
          doneF := true
          doneAt := some (aonCycle s.dev.now)
          park := BitVec.ofNat 8 (parkValue s.dev v.toNat) } ∧
        ∀ n, n < 8 → alive s.dev n = true → bitOf (parkValue s.dev v.toNat) n = true → bitOf s.aon.park.toNat n = false →
          (dieOf t.dev n).parked = true) ∧
    (s.aon.armed = some (v, 2, at') → v.toNat < 256 → v.toNat % 2 = 0 → parksMore s.aon s.dev v.toNat = false →
      s.dev.run = .running →
      ∃ t, exec (.dieUnpark (~~~v)) s = .next t ∧ t.pending = s.pending ∧
        t.aon = { s.aon with
          armed := none
          doneF := true
          doneAt := some (aonCycle s.dev.now)
          park := BitVec.ofNat 8 (parkValue s.dev v.toNat) } ∧
        ∀ n, n < 8 → bitOf (parkValue s.dev v.toNat) n = false → bitOf s.aon.park.toNat n = true →
          (dieOf t.dev n).parked = false) ∧
    (s.aon.armed = some (v, 3, at') → v.toNat = 1 → forceRuns s.dev = true → s.dev.thermal = false →
      ∃ t, exec (.leaseForceActive (~~~v)) s = .next t ∧ t.pending = s.pending ∧
        t.aon = { s.aon with
          armed := none
          doneF := true
          doneAt := some (aonCycle s.dev.now)
          force := 0 } ∧
        t.dev.ha.holder = true ∧ t.dev.ha.epoch = nextEpoch s.dev.ha.seen ∧ t.dev.ha.fenced = false) ∧
    (s.aon.armed = some (v, 3, at') → v.toNat = 2 → forceRuns s.dev = true →
      ∃ t, exec (.leaseForceStandby (~~~v)) s = .next t ∧ t.pending = s.pending ∧
        t.aon = { s.aon with
          armed := none
          doneF := true
          doneAt := some (aonCycle s.dev.now)
          force := 0 } ∧
        t.dev.ha.holder = false ∧ t.dev.ha.fenced = true ∧ t.dev.ha.cause = 7 ∧ t.dev.ha.sync = .stale) ∧
    (s.aon.armed = some (v, 4, at') → v.toNat < 2 →
      ∃ t, exec (.fuseProgEnable (~~~v)) s = .next t ∧ t.dev = s.dev ∧ t.pending = s.pending ∧
        t.aon = { s.aon with
          armed := none
          doneF := true
          doneAt := some (aonCycle s.dev.now)
          fuseEn := if bitOf v.toNat 0 then some s.dev.now else none })

/-- Completion of start-up, package reset and PERST_N (R16, R579, R671 to R680, R698, R703, R706, R717). Whether a firmware
copy is valid rests on the signature check, which is a free function of the model (log entry 3). -/
def Obligations.StartupComplete : Prop :=
  ∀ s : State, s.dev.dies.length = 8 →
    (∀ failed d0, s.dev.run = .reset →
      pickFw { s.aon with
        fwValid := judgeFw s.aon s.dev.part
        badFw := [] } = none →
      ∃ t, exec (.pwrOkRise failed d0) s = .next t ∧ t.dev.run = .recovery ∧ t.dev.pwrOk = true ∧
        (dieOf t.dev 0).keeper = .recovery ∧ t.aon.fwRun = 2 ∧ t.pending = s.pending) ∧
    (∀ failed k, s.dev.run = .reset →
      pickFw { s.aon with
        fwValid := judgeFw s.aon s.dev.part
        badFw := [] } = some k →
      (∃ t, exec (.pwrOkRise failed true) s = .next t ∧ t.dev.run = .haltedStart ∧ t.dev.alert = true) ∧
      (∃ t, exec (.pwrOkRise failed false) s = .next t ∧ t.dev.run = .running ∧ t.dev.pwrOk = true ∧
        t.aon.fwRun = k ∧ t.dev.grain0 = some t.dev.now ∧ t.dev.ha.holder = false ∧
        ∀ n, n < dieCount s.dev.part →
          ((n ∈ failed ∧ n ≠ 0) → (dieOf t.dev n).lost = true) ∧
          ((n ∉ failed ∨ n = 0) → (dieOf t.dev n).keeper = .running))) ∧
    (s.dev.pwrOk = true → ∀ i : Instr, (i = .pwrOkFall ∨ i = .railUndervoltage) →
      ∃ t, exec i s = .next t ∧ t.pending = s.pending ∧ t.dev.run = .reset ∧ t.dev.pwrOk = false ∧
        t.aon.lock = false ∧ t.aon.override = false ∧ t.aon.park = 0 ∧ t.aon.fuseEn = none ∧
        t.aon.flash = s.aon.flash ∧ t.aon.fuses = s.aon.fuses ∧ t.aon.opKey = s.aon.opKey ∧
        t.aon.rollback = s.aon.rollback ∧ t.aon.dbgDisable = s.aon.dbgDisable ∧ t.dev.master = {} ∧
        t.dev.pkg = {} ∧ t.dev.ports = [] ∧ t.dev.frames = []) ∧
    (∀ n, hasDie s.dev n = true → (∀ x ∈ s.dev.dies, x.rings.length = 8) →
      (∃ t, exec (.pcieRefclkLoss n) s = .next t ∧ dieOf t.dev n = { dieOf s.dev n with pcieUp := false }) ∧
      (∃ t, exec (.perstNAssert n) s = .next t ∧ (dieOf t.dev n).perst = true ∧ (dieOf t.dev n).pcieUp = false ∧
        (dieOf t.dev n).ready = false ∧ (∀ k, k < 8 → (ringOf t.dev n k).enable = false) ∧
        (dieOf t.dev n).cause = 0 ∧ (dieOf t.dev n).tab = (dieOf s.dev n).tab) ∧
      (∀ split link1, (dieOf s.dev n).perst = true →
        ∃ t, exec (.perstNRelease n ⟨split, link1⟩) s = .next t ∧ (dieOf t.dev n).perst = false ∧
          (dieOf t.dev n).split = split ∧ (dieOf t.dev n).link1 = link1 ∧ (dieOf t.dev n).perstAt = s.dev.now ∧
          (dieOf t.dev n).cause = 0 ∧ (dieOf t.dev n).mbHalt = false ∧
          (s.dev.run = .running → (dieOf t.dev n).pcieUp = true))) ∧
    (∀ n, alive s.dev n = true → (dieOf s.dev n).perst = false → (dieOf s.dev n).ready = false →
      s.dev.run = .running → (dieOf s.dev n).keeper ≠ .booting →
      expired s.dev (dieOf s.dev n).perstAt (100 * ms) = true →
      ∃ t, exec (.dieReady n) s = .next t ∧ (dieOf t.dev n).ready = true ∧
        bitOf (dieOf t.dev n).cause.toNat intReady = true)

/-- Completion of the pins that stop the package, of the debug mailbox and of the loss of a die (R49, R409 to R413, R689,
R705, R706, R715, R720 to R722). -/
def Obligations.StopsComplete : Prop :=
  ∀ s : State, s.dev.dies.length = 8 →
    (s.dev.run = .running →
      ∃ t, exec .refclkLoss s = .next t ∧ t.dev.run = .packageStop ∧ t.dev.alert = true ∧
        ∀ p ∈ configured s.dev, isPort s.dev p = true → (portOf t.dev p).link = .disabled) ∧
    (s.dev.run = .running → pinReady s.dev s.dev.fault = true →
      ∃ t, exec .faultInAssert s = .next t ∧ t.dev.thermal = true ∧ t.dev.fault.level = true) ∧
    (s.dev.run = .running → s.dev.fault.level = true →
      ∃ t, exec .faultInDeassert s = .next t ∧ t.dev.fault = { level := false, lowAt := some s.dev.now }) ∧
    (∀ u, s.dev.thermal = true → s.dev.coolAt = some u → coolNow s.dev = true →
      expired s.dev u (100 * ms) = true →
      ∃ t, exec .thermalStopExit s = .next t ∧ t.dev.thermal = false ∧ t.dev.alert = false) ∧
    (s.dev.run ≠ .reset → s.aon.dbgDisable = false →
      ∃ t, exec .debugMailboxAccess s = .next t ∧ t.dev = s.dev ∧ t.aon = { s.aon with debugUsed := true }) ∧
    (∀ n, alive s.dev n = true → liveChans s.dev n ≠ [] →
      (∀ j ∈ liveChans s.dev n, expired s.dev (chanOf s.dev n j).lastOk (10 * ms) = true) →
      ∃ t, exec (.heartbeatSilence n) s = .next t ∧ (dieOf t.dev n).lost = true ∧
        (n = 0 → t.dev.run = .lost) ∧
        (n ≠ 0 → t.dev.run =
          if mirrorDie s.dev = some n ∧ (dieOf s.dev 0).keeper = .restarting then .lost else s.dev.run)) ∧
    (∀ n j, j ∈ liveChans s.dev n → expired s.dev (chanOf s.dev n j).lastOk (10 * ms) = false →
      exec (.heartbeatSilence n) s = .next s) ∧
    (∀ n, alive s.dev n = true → n ≠ 0 → expired s.dev (dieOf s.dev n).hbAt (10 * ms) = true →
      ∃ t, exec (.heartbeatLossStop n) s = .next t ∧ dieOf t.dev n = { dieOf s.dev n with txStop := true })

namespace Sys2Proof.Claims

/-- A counter of a die has risen by 1, modulo 2^64 (R317). -/
def Counted (s t : State) (n i : Nat) : Prop := counterOf t.dev n i = (counterOf s.dev n i + 1) % two64

/-- What always holds of the records inside the device: names below `nextId` are used up, every VOQ is listed once, and a
comb lists every HELD cell once. The names are the model's own (log entry 12). -/
def recordInv (d : Dev) : Prop :=
  (∀ f ∈ d.frames, f.id < d.nextId ∧ f.orig < d.nextId) ∧ (d.voqs.map (·.1)).Nodup ∧
    ∀ x ∈ d.dies, (∀ y ∈ x.slices, ∀ i ∈ y.queue, i < d.nextId) ∧ (x.comb.held.map (·.cell)).Nodup

/-- A counter in the slot of a port has risen by 1. -/
def PortCounted (s t : State) (p off : Nat) : Prop := Counted s t (dieOfPort p) (slotPort (localOf p) off)

/-- The attempt of a port has failed (R60 to R63): a step falls back, any other leaves the port DOWN for the restart
wait. -/
def AttemptFailed (s t : State) (p lane : Nat) : Prop :=
  PortCounted s t p cntStepFail ∧
  ((portOf s.dev p).attempt = .step →
    (portOf t.dev p).attempt = .fallback ∧ (portOf t.dev p).attRate = (portOf s.dev p).attRate - 1 ∧
    (portOf t.dev p).ceiling = some ((portOf s.dev p).attRate - 1) ∧ (portOf t.dev p).failLane = lane) ∧
  ((portOf s.dev p).attempt ≠ .step →
    (portOf t.dev p).link = .down ∧ (portOf t.dev p).phase = .restartWait ∧ (portOf t.dev p).phaseAt = s.dev.now)

end Sys2Proof.Claims

/-- Completion of signal detect, HELLO rows, locks and training (R57, R58, R71, R129 to R135). The requests in HELLO rows
sent are free values (log entry 31), and how often a wrong SIDE is counted is the model's choice (log entry 56). -/
def Obligations.BringupEventsComplete : Prop :=
  ∀ s : State, s.dev.dies.length = 8 →
    (∀ l v, alive s.dev (dieOfPort l) = true → (laneOf s.dev l).sdRaw ≠ v →
      ∃ t, exec (.signalDetectChange l v) s = .next t ∧ (laneOf t.dev l).sdRaw = v ∧
        (laneOf t.dev l).sdSince = if v = (laneOf s.dev l).sd then none else some s.dev.now) ∧
    (∀ l u, alive s.dev (dieOfPort l) = true → (laneOf s.dev l).sdSince = some u → expired s.dev u (10 * us) = true →
      ∃ t, exec (.signalDetectValid l) s = .next t ∧ (laneOf t.dev l).sd = (laneOf s.dev l).sdRaw ∧
        (laneOf t.dev l).sdSince = none) ∧
    (∀ p, isSpindle s.dev p = true → alive s.dev (dieOfPort p) = true →
      ((portOf s.dev p).link = .seek ∨ (portOf s.dev p).link = .stepping) →
      ((portOf s.dev p).helloNext ≤ s.dev.now →
        ∃ t, exec (.helloTxDue p) s = .next t ∧ (portOf t.dev p).helloNext = s.dev.now + us ∧
          (∀ l, (portOf s.dev p).failOwed = some l → AttemptFailed s t p l) ∧
          ∃ d, Out.hello p ((List.range (portOf s.dev p).conf.width).map (helloContent d p)) ∈ t.dev.out ∧
            portOf d p = portOf s.dev p ∧
            (∀ l, { laneOf d l with ask := (laneOf s.dev l).ask } = laneOf s.dev l) ∧
            ((portOf s.dev p).phase ≠ .train → ∀ l, laneOf d l = laneOf s.dev l)) ∧
      ((portOf s.dev p).phase ≠ .pll →
        (∀ k, k ≤ 200 → ∃ t, exec (.laneLock p k) s = .next t ∧ ∀ l ∈ portLanes s.dev p,
          (laneOf t.dev l).blockLock = true ∧ (laneOf t.dev l).cwLock = decide (2 ≤ (portOf s.dev p).attRate)) ∧
        (∀ k, 200 < k → inAttempt (portOf s.dev p) = true →
          ∃ t, exec (.laneLock p k) s = .next t ∧ AttemptFailed s t p p) ∧
        (∀ k, 200 < k → inAttempt (portOf s.dev p) = false → exec (.laneLock p k) s = .next s))) ∧
    (∀ p, alive s.dev (dieOfPort p) = true → isSpindle s.dev p = true → (portOf s.dev p).link = .up →
      (portOf s.dev p).phase = .l2Train → ∀ i, (i = .eqTrainingDone p ∨ ∃ k, i = .laneLock p k) →
      ∃ t, exec i s = .next t ∧ (portOf t.dev p).phase = .l2Check ∧ (portOf t.dev p).phaseAt = s.dev.now) ∧
    (∀ p, isEth s.dev p = true → portsRun s.dev p = true → (portOf s.dev p).ethPhase = .training →
      (portOf s.dev p).link = .down →
      ∃ t, exec (.eqTrainingDone p) s = .next t ∧
        ((portOf s.dev p).pcsOk = false → (portOf t.dev p).ethPhase = .pcs ∧ (portOf t.dev p).link = .down) ∧
        ((portOf s.dev p).pcsOk = true → hasFec s.dev p = false →
          (portOf t.dev p).link = .up ∨ (portOf t.dev p).link = .quarantine)) ∧
    (∀ l p, portOfLane s.dev l = some p →
      ((portOf s.dev p).link = .seek → (laneOf s.dev l).blockLock = true →
        (∀ u, (laneOf s.dev l).helloAt = some u → u < (laneOf s.dev l).lockAt) →
        expired s.dev (laneOf s.dev l).lockAt (10 * ms) = true →
        ∃ t, exec (.seekLockRestart l) s = .next t ∧ (laneOf t.dev l).blockLock = false ∧
          (laneOf t.dev l).cwLock = false) ∧
      (∀ c ok, isSpindle s.dev p = true → alive s.dev (dieOfPort p) = true →
        (((portOf s.dev p).link = .seek ∨ (portOf s.dev p).link = .stepping) →
          ((portOf s.dev p).phase = .lock ∨ ((portOf s.dev p).phase = .train ∧ hf c 11 2 ≠ 2)) → ok = true →
          helloBad c = false →
          ∃ t, exec (.rxHello l c ok) s = .next t ∧ (laneOf t.dev l).hello = c ∧
            (laneOf t.dev l).helloAt = some s.dev.now) ∧
        (((portOf s.dev p).link = .seek ∨ (portOf s.dev p).link = .stepping) →
          ((portOf s.dev p).phase = .train ∨ (portOf s.dev p).phase = .qualify ∨ (portOf s.dev p).phase = .passed) →
          ok = true → helloBad c = false → hf c 11 2 = 2 →
          ∃ t, exec (.rxHello l c ok) s = .next t ∧ AttemptFailed s t p l) ∧
        ((portOf s.dev p).link = .up → ok = true → helloBad c = false → rxOn s.dev p = true →
          ∃ t, exec (.rxHello l c ok) s = .next t ∧ (portOf t.dev p).link ≠ .up) ∧
        ((portOf s.dev p).link = .up → rxOn s.dev p = false → exec (.rxHello l c ok) s = .next s) ∧
        ((portOf s.dev p).link = .seek → (ok = false ∨ helloBad c = true) →
          ∃ t, exec (.rxHello l c ok) s = .next t ∧ PortCounted s t p cntOsBad))) ∧
    (∀ p, alive s.dev (dieOfPort p) = true →
      ((portOf s.dev p).phase = .pll →
        ∃ t, exec (.pllLock p) s = .next t ∧ (portOf t.dev p).phase = .lock ∧ (portOf t.dev p).phaseAt = s.dev.now) ∧
      ((portOf s.dev p).phase = .train → isSpindle s.dev p = true →
        ∃ t, exec (.eqTrainingDone p) s = .next t ∧ (portOf t.dev p).trainDone = true) ∧
      ((portOf s.dev p).phase = .qualify → (portOf s.dev p).failOwed = none →
        expired s.dev (portOf s.dev p).phaseAt (windowTime (portOf s.dev p).attRate) = true →
        (portOf s.dev p).rateReq ≤ (portOf s.dev p).attRate → farAll s.dev p (fun c => hf c 11 2 == 1) = false →
        ∃ t, exec (.qualificationWindowEnd p) s = .next t ∧ (portOf t.dev p).phase = .passed ∧
          (portOf t.dev p).qual = 1)) ∧
    (∀ l a b c z, (laneOf s.dev l).coefReq = some (a, b, c) →
      z = presetOf s.dev l (((portOfLane s.dev l).map fun p => (portOf s.dev p).attRate).getD 0) →
      (∃ t, exec (.coefRequestApplied l true) s = .next t ∧ (laneOf t.dev l).coefReq = none ∧
        (laneOf t.dev l).coefStatus = 2 ∧ (laneOf t.dev l).tapPre = (laneOf s.dev l).tapPre) ∧
      (∃ t, exec (.coefRequestApplied l false) s = .next t ∧ (laneOf t.dev l).coefReq = none ∧
        (laneOf t.dev l).coefStatus = 1 ∧ (laneOf t.dev l).tapPre = moveTap z.1 (laneOf s.dev l).tapPre a ∧
        (laneOf t.dev l).tapMain = moveTap z.2.1 (laneOf s.dev l).tapMain b ∧
        (laneOf t.dev l).tapPost = moveTap z.2.2 (laneOf s.dev l).tapPost c))

/-- Completion of the timers of bring-up, of codewords, of test mode and of the smoker (R58 to R63, R70, R82, R84 to R88,
R123, R124). That a passed attempt fails when HELLOs stop, and from which bits a checker takes its sequence, is the model's
choice (log entry 56). -/
def Obligations.BringupTimersComplete : Prop :=
  ∀ s : State, s.dev.dies.length = 8 →
    (∀ p lane u, alive s.dev (dieOfPort p) = true → phaseBudget (portOf s.dev p) = some u →
      expired s.dev (portOf s.dev p).phaseAt u = true →
      ∃ t, exec (.phaseBudgetExpiry p lane) s = .next t ∧ AttemptFailed s t p lane) ∧
    (∀ p lane, alive s.dev (dieOfPort p) = true → inAttempt (portOf s.dev p) = true →
      (portOf s.dev p).phase ≠ .passed → expired s.dev (portOf s.dev p).attAt (100 * ms) = true →
      ∃ t, exec (.attemptLimitExpiry p lane) s = .next t ∧ AttemptFailed s t p lane) ∧
    (∀ l p u, portOfLane s.dev l = some p → silentSince s.dev p l = some u → inAttempt (portOf s.dev p) = true →
      expired s.dev u ms = true → alive s.dev (dieOfPort p) = true →
      ∃ t, exec (.helloSilenceExpiry l) s = .next t ∧ AttemptFailed s t p l) ∧
    (∀ p, (portOf s.dev p).phase = .restartWait → expired s.dev (portOf s.dev p).phaseAt (100 * ms) = true →
      portsRun s.dev p = true → isPort s.dev p = true →
      ∃ t, exec (.restartWaitExpiry p) s = .next t ∧
        (portOf t.dev p).link = if isSpindle s.dev p then .seek else .down) ∧
    (∀ l p, portOfLane s.dev l = some p → hasFec s.dev p = true → alive s.dev (dieOfPort p) = true →
      (portOf s.dev p).link ≠ .disabled → (portOf s.dev p).link ≠ .test → alive s.dev (dieOfPort l) = true →
      ((portOf s.dev p).link = .up → rxOn s.dev p = true) →
      (isSpindle s.dev p = false →
        (∀ h, ∃ t, exec (.rxCodeword l ⟨none, h⟩) s = .next t ∧ PortCounted s t l cntFecUncorr) ∧
        (∀ k h, ∃ t, exec (.rxCodeword l ⟨some k, h⟩) s = .next t ∧ PortCounted s t l (cntFecHist + min k 8) ∧
          (0 < k → PortCounted s t l cntFecCorr))) ∧
      (isSpindle s.dev p = true → (portOf s.dev p).phase = .l2Check → (portOf s.dev p).link = .up →
        ∀ c h, codewordFine c = false → ∃ t, exec (.rxCodeword l ⟨c, h⟩) s = .next t ∧ (portOf t.dev p).link ≠ .up) ∧
      (isSpindle s.dev p = true → (portOf s.dev p).phase ≠ .qualify → (portOf s.dev p).phase ≠ .l2Check →
        ((laneOf s.dev l).cwLock = false →
          (∀ k, (laneOf s.dev l).cwGood < 3 → ∃ t, exec (.rxCodeword l ⟨some k, true⟩) s = .next t ∧
            (laneOf t.dev l).cwGood = (laneOf s.dev l).cwGood + 1 ∧ (laneOf t.dev l).cwLock = false) ∧
          (∀ k, 3 ≤ (laneOf s.dev l).cwGood → ∃ t, exec (.rxCodeword l ⟨some k, true⟩) s = .next t ∧
            (laneOf t.dev l).cwLock = true) ∧
          (∀ c h, (c = none ∨ h = false) → ∃ t, exec (.rxCodeword l ⟨c, h⟩) s = .next t ∧ (laneOf t.dev l).cwGood = 0 ∧
            (laneOf t.dev l).cwOffset = ((laneOf s.dev l).cwOffset + 1) % 5440)) ∧
        ((laneOf s.dev l).cwLock = true → (portOf s.dev p).farQuiet ≠ 0 →
          ∀ c h, ∃ t, exec (.rxCodeword l ⟨c, h⟩) s = .next t ∧ portOf t.dev p = portOf s.dev p) ∧
        ((laneOf s.dev l).cwLock = true → (portOf s.dev p).farQuiet = 0 →
          (∀ k h, ∃ t, exec (.rxCodeword l ⟨some k, h⟩) s = .next t ∧ (laneOf t.dev l).cwBad = 0) ∧
          (2 ≤ (laneOf s.dev l).cwBad →
            ∀ h, ∃ t, exec (.rxCodeword l ⟨none, h⟩) s = .next t ∧ (laneOf t.dev l).cwLock = false ∧
              (portOf t.dev p).link ≠ .up)))) ∧
    (∀ p, (portOf s.dev p).link = .quarantine → alive s.dev (dieOfPort p) = true →
      (portOf s.dev p).quarUntil ≤ s.dev.now →
      ∃ t, exec (.quarantineHoldoffEnd p) s = .next t ∧ (portOf t.dev p).transitions = [] ∧
        (portOf t.dev p).quarEnd = some s.dev.now ∧
        (portsRun s.dev p = true → isPort s.dev p = true →
          (portOf t.dev p).link = if isSpindle s.dev p then .seek else .down)) ∧
    (∀ p, historyOld s.dev (portOf s.dev p) = true →
      ∃ t, exec (.smokerHistoryReset p) s = .next t ∧
        portOf t.dev p = { portOf s.dev p with holdLevel := 0 }) ∧
    (∀ l p bits seed, portOfLane s.dev l = some p → (portOf s.dev p).link = .test →
      seed = (bits.take 31).foldl prbsShift 0 →
      ((laneOf s.dev l).prbsLock = true →
        ∃ t, exec (.prbsCheckerLock l bits) s = .next t ∧
          (laneOf t.dev l).prbsErrors =
            min ((laneOf s.dev l).prbsErrors + (prbsCheck (laneOf s.dev l).prbsRef bits).1) (two64 - 1)) ∧
      ((laneOf s.dev l).prbsLock = false →
        (1055 ≤ bits.length → seed ≠ 0 → (prbsCheck seed ((bits.drop 31).take 1024)).1 < 16 →
          ∃ t, exec (.prbsCheckerLock l bits) s = .next t ∧ (laneOf t.dev l).prbsLock = true ∧
            (laneOf t.dev l).prbsAt = s.dev.now ∧ (bits.length = 1055 → (laneOf t.dev l).prbsErrors = 0)) ∧
        (bits.length < 1055 ∨ seed = 0 ∨ 16 ≤ (prbsCheck seed ((bits.drop 31).take 1024)).1 →
          exec (.prbsCheckerLock l bits) s = .next s))) ∧
    (∀ n seed, (prbsCheck seed (prbsBits n seed)).1 = 0) ∧
    (∀ p, isEth s.dev p = true →
      (∀ partner : List Nat, (portOf s.dev p).ethPhase = .autoneg → portsRun s.dev p = true →
        ∃ t, exec (.ethAnExchange p partner) s = .next t ∧
          Out.anPage p (portOf s.dev p).conf.rate (fecAbilities (portOf s.dev p).conf.rate) ∈ t.dev.out ∧
          (partner.contains (portOf s.dev p).conf.rate = true → (portOf t.dev p).anFailAt = none ∧
            (portOf t.dev p).ethPhase = trainPhase (portOf s.dev p).conf) ∧
          (partner.contains (portOf s.dev p).conf.rate = false → (portOf t.dev p).ethPhase = .autoneg ∧
            ((portOf s.dev p).anFailAt = none → (portOf t.dev p).anFailAt = some s.dev.now) ∧
            ((portOf s.dev p).anFailAt.isSome = true → (portOf t.dev p).anMiss = true ∧
              (portOf t.dev p).anFailAt = (portOf s.dev p).anFailAt))) ∧
      (∀ u, (portOf s.dev p).anFailAt = some u → expired s.dev u (10 * sec) = true →
        (portOf s.dev p).anMiss = true → (portOf s.dev p).ethPhase = .autoneg →
        ∃ t, exec (.anFailRepeat p) s = .next t ∧ (portOf t.dev p).anFailAt = some s.dev.now ∧
          (portOf t.dev p).anMiss = false) ∧
      (portsRun s.dev p = true → ((portOf s.dev p).ethPhase = .training ∨ (portOf s.dev p).ethPhase = .pcs) →
        (∀ aligned : BitVec 8, (portOf s.dev p).link = .down → (hasFec s.dev p = false ∨
            ∀ i, i < (portOf s.dev p).conf.width → aligned.getLsbD i = true) →
          ∃ t, exec (.ethLinkStatusChange p ⟨true, aligned⟩) s = .next t ∧
            ((portOf t.dev p).link = .up ∨ (portOf t.dev p).link = .quarantine)) ∧
        (∀ (pcs : Bool) (aligned : BitVec 8), (portOf s.dev p).link = .up → (pcs = false ∨ (hasFec s.dev p = true ∧
            ∃ i, i < (portOf s.dev p).conf.width ∧ aligned.getLsbD i = false)) →
          ∃ t, exec (.ethLinkStatusChange p ⟨pcs, aligned⟩) s = .next t ∧ (portOf t.dev p).link ≠ .up)))

/-- Completion of the blocks that a Spindle port receives (R85, R108, R113 to R118). -/
def Obligations.BlocksComplete : Prop :=
  ∀ (s : State) (p : Nat), s.dev.dies.length = 8 →
    (receiving s.dev p = true →
      (∃ t, exec (.rxIdleBlock p) s = .next t ∧ (portOf t.dev p).rx = .out ∧ (portOf t.dev p).rxFrame = none) ∧
      (∀ h, hcrcOk h = true →
        ∃ t i, exec (.rxStartBlock p h) s = .next t ∧ (portOf t.dev p).rx = .inFrame ∧
          (portOf t.dev p).rxFrame = some i) ∧
      (∀ h, hcrcOk h = true → (portOf s.dev p).rx = .out → recordInv s.dev →
        (portOf s.dev p).roleSeen = true → pipelined s.dev p = true →
        (dieOf s.dev (dieOfPort p)).slices.length = 4 → sliceOfPort p < 4 →
        (sliceOf s.dev (dieOfPort p) (sliceOfPort p)).pow = .on →
        portEntries s.dev (dieOfPort p) (sliceOfPort p) p < 1024 →
        (sliceOf s.dev (dieOfPort p) (sliceOfPort p)).queue.length < 4096 →
        ∃ t, exec (.rxStartBlock p h) s = .next t ∧ (portOf t.dev p).rxFrame = some s.dev.nextId ∧
          (sliceOf t.dev (dieOfPort p) (sliceOfPort p)).queue =
            (sliceOf s.dev (dieOfPort p) (sliceOfPort p)).queue ++ [s.dev.nextId] ∧
          (frameOf t.dev s.dev.nextId).ve = h.toNat % 4096 ∧
          (frameOf t.dev s.dev.nextId).tc = h.toNat / 4096 % 8 ∧
          (frameOf t.dev s.dev.nextId).port = p ∧ (frameOf t.dev s.dev.nextId).stage = .ingress) ∧
      (∀ h, hcrcOk h = false →
        ∃ t, exec (.rxStartBlock p h) s = .next t ∧ (portOf t.dev p).rx = .discard) ∧
      (∀ w, (portOf s.dev p).rx = .out →
        ∃ t, exec (.rxDataBlock p w) s = .next t ∧ (portOf t.dev p).rx = .out ∧ PortCounted s t p cntRxStray) ∧
      (∀ w i, (portOf s.dev p).rx = .inFrame → (portOf s.dev p).rxFrame = some i →
        (s.dev.frames.any fun f => f.id == i) = true → (frameOf s.dev i).passed3 = false →
        (frameOf s.dev i).stage = .ingress →
        ∃ t, exec (.rxDataBlock p w) s = .next t ∧
          ((frameOf s.dev i).bytes.length + 8 < 9729 → (portOf t.dev p).rx = .inFrame ∧
            (frameOf t.dev i).bytes = (frameOf s.dev i).bytes ++ leBytes 8 w.toNat) ∧
          (9729 ≤ (frameOf s.dev i).bytes.length + 8 → (portOf t.dev p).rx = .discard)) ∧
      (∀ k w, k < 8 →
        ∃ t, exec (.rxTerminateBlock p k w) s = .next t ∧ (portOf t.dev p).rx = .out ∧
          ((portOf s.dev p).rx = .out → PortCounted s t p cntRxStray)) ∧
      (∀ r, ∃ t, exec (.rxStompBlock p r) s = .next t ∧ (portOf t.dev p).rx = .out ∧
        ((portOf s.dev p).rx = .out → PortCounted s t p cntRxStray ∧ PortCounted s t p cntStompRx)) ∧
      (∀ lane fec i, (portOf s.dev p).phase ≠ .qualify → (portOf s.dev p).phase ≠ .l2Check → (portOf s.dev p).rx = .inFrame →
        (portOf s.dev p).rxFrame = some i →
        ∃ t, exec (.rxBadBlock p lane false fec) s = .next t ∧ (portOf t.dev p).rx = .discard) ∧
      (∀ lane bad fec, (portOf s.dev p).phase = .l2Check → (portOf s.dev p).rate ≤ 1 →
        ∃ t, exec (.rxBadBlock p lane bad fec) s = .next t ∧ (portOf t.dev p).link ≠ .up) ∧
      (∀ lane fec, (portOf s.dev p).phase ≠ .qualify → (portOf s.dev p).phase ≠ .l2Check → (portOf s.dev p).rx ≠ .inFrame →
        ∃ t, exec (.rxBadBlock p lane false fec) s = .next t ∧ (portOf t.dev p).rx = (portOf s.dev p).rx ∧
          PortCounted s t p cntRxBadBlock)) ∧
    (isSpindle s.dev p = true → alive s.dev (dieOfPort p) = true → (portOf s.dev p).phase = .qualify →
      ((portOf s.dev p).link = .seek ∨ (portOf s.dev p).link = .stepping) → (portOf s.dev p).rate ≤ 1 →
      ∀ lane bad fec, ∃ t, exec (.rxBadBlock p lane bad fec) s = .next t ∧ (portOf t.dev p).qual = 2 ∧
        (portOf t.dev p).failOwed = some ((portOf s.dev p).failOwed.getD lane)) ∧
    (isSpindle s.dev p = true → alive s.dev (dieOfPort p) = true → (portOf s.dev p).link = .quarantine →
      ∀ h, hcrcOk h = true → ∃ t, exec (.rxStartBlock p h) s = .next t ∧
        Counted s t (dieOfPort p) (slotDie (cntDieDropFrames + drQuarantine)) ∧
        PortCounted s t p (cntPortDropFrames + drQuarantine) ∧ t.dev.frames = s.dev.frames)

/-- Completion of the ordered sets that a Spindle link receives (R127 to R129, R136 to R149). -/
def Obligations.OrderedSetsComplete : Prop :=
  ∀ (s : State) (p : Nat), s.dev.dies.length = 8 → receiving s.dev p = true →
    (∀ c, hf c 32 8 = 0 → hf c 7 9 = 0 → hf c 3 2 < 3 → hf c 5 2 < 3 →
      ∃ t, exec (.rxRole p c) s = .next t ∧ (portOf t.dev p).farRole = hf c 3 2 ∧
        (portOf t.dev p).farQuiet = hf c 5 2 ∧ (portOf t.dev p).farEpoch = hf c 16 16 ∧
        (portOf t.dev p).roleSeen = true ∧ (portOf t.dev p).farRoleAt = some s.dev.now) ∧
    (∀ c, (hf c 32 8 ≠ 0 ∨ hf c 7 9 ≠ 0 ∨ hf c 3 2 = 3 ∨ hf c 5 2 = 3) →
      ∃ t, exec (.rxRole p c) s = .next t ∧ (portOf t.dev p).farRole = (portOf s.dev p).farRole ∧
        PortCounted s t p cntOsBad) ∧
    (∀ c, hf c 24 16 = 0 →
      ∃ t, exec (.rxPauseOs p c) s = .next t ∧ PortCounted s t p cntPauseRx ∧
        ∀ k, k < 8 →
          (bitOf (hf c 0 8) k = true ∧ 0 < hf c 8 16 →
            kget? (portOf t.dev p).rxPaused k = some (s.dev.now + hf c 8 16 * 1250)) ∧
          (bitOf (hf c 0 8) k = false ∨ hf c 8 16 = 0 → recPaused t.dev p k = false)) ∧
    (∀ c, hf c 24 16 ≠ 0 →
      ∃ t, exec (.rxPauseOs p c) s = .next t ∧ (portOf t.dev p).rxPaused = (portOf s.dev p).rxPaused ∧
        PortCounted s t p cntOsBad) ∧
    (∀ c, hf c 13 3 = 0 → (veRead (dieOf s.dev (dieOfPort p)) (hf c 0 12)).valid = true →
      (veRead (dieOf s.dev (dieOfPort p)) (hf c 0 12)).port = p →
      ∃ t, exec (.rxVeXoff p c) s = .next t ∧ PortCounted s t p cntVeXoffRx ∧
        ∀ k, k < 8 → bitOf (hf c 32 8) k = true →
          (hf c 12 1 = 1 ∧ 0 < hf c 16 16 →
            kget? (portOf t.dev p).rxXoff (hf c 0 12, k) = some (s.dev.now + hf c 16 16 * 1250)) ∧
          (hf c 12 1 = 0 ∨ hf c 16 16 = 0 → recXoff t.dev p (hf c 0 12) k = false)) ∧
    (∀ c, (hf c 13 3 ≠ 0 ∨ (veRead (dieOf s.dev (dieOfPort p)) (hf c 0 12)).valid = false ∨
        (veRead (dieOf s.dev (dieOfPort p)) (hf c 0 12)).port ≠ p) →
      ∃ t, exec (.rxVeXoff p c) s = .next t ∧ (portOf t.dev p).rxXoff = (portOf s.dev p).rxXoff ∧
        PortCounted s t p cntOsBad) ∧
    (∃ t, exec (.rxOsUnknown p) s = .next t ∧ PortCounted s t p cntOsUnknown ∧
      (portOf t.dev p).rx = (portOf s.dev p).rx) ∧
    (∃ t, exec (.rxOsBad p) s = .next t ∧ PortCounted s t p cntOsBad ∧
      (portOf t.dev p).rx = (portOf s.dev p).rx)

/-- Completion of what an idle link, a quiet state and their timers do (R76 to R79, R138, R483, R654). -/
def Obligations.QuietStatesComplete : Prop :=
  ∀ (s : State) (p : Nat),
    (talking s.dev p = true → expired s.dev (portOf s.dev p).roleAt (65536 * rowTime (portOf s.dev p).rate) = true →
      ∃ t, exec (.roleKeepaliveDue p) s = .next t ∧ (portOf t.dev p).roleAt = s.dev.now ∧
        t.dev.out = .idle p :: .role p (roleSent s.dev) (portOf s.dev p).quiet (epochOf s.dev) :: s.dev.out) ∧
    (talking s.dev p = true → 0 < (portOf s.dev p).roleLeft → expired s.dev (portOf s.dev p).roleAt us = true →
      ∃ t, exec (.roleRepeatDue p) s = .next t ∧ (portOf t.dev p).roleAt = s.dev.now ∧
        (portOf t.dev p).roleLeft = (portOf s.dev p).roleLeft - 1 ∧
        (portOf t.dev p).power =
          (if (portOf s.dev p).roleLeft = 1 ∧ (portOf s.dev p).quiet = 1 then .l1 else .l0) ∧
        t.dev.out = .idle p :: .role p (roleSent s.dev) (portOf s.dev p).quiet (epochOf s.dev) :: s.dev.out) ∧
    (talking s.dev p = true → (portOf s.dev p).phase = .idle → (portOf s.dev p).quiet = 0 →
      (standbyPort s.dev p = true ∨ (parkAllowed s.dev (dieOfPort p) = true ∧ (portOf s.dev p).tx = none ∧
        (portOf s.dev p).next = none ∧ schedEmpty (portOf s.dev p) = true ∧
        expired s.dev (portOf s.dev p).lastTx (10 * us) = true ∧ expired s.dev (portOf s.dev p).lastWait (10 * us) = true ∧
        (isPeerPort s.dev p = false ∨ (s.dev.thermal = false ∧ s.dev.ha.q6 = [] ∧ s.dev.ha.q7 = [])))) →
      ∃ t, exec (.l1IdleEntry p) s = .next t ∧ (portOf t.dev p).power = .l0 ∧ (portOf t.dev p).quiet = 1 ∧
        (portOf t.dev p).roleLeft = 3 ∧ (portOf t.dev p).roleAt = s.dev.now ∧
        t.dev.out = .idle p :: .role p (roleSent s.dev) 1 (epochOf s.dev) :: s.dev.out) ∧
    (isSpindle s.dev p = true → portUp s.dev p = true → (portOf s.dev p).power = .l1 →
      (portOf s.dev p).l2Ask = none → standbyPort s.dev p = false → parkAllowed s.dev (dieOfPort p) = true →
      (dieOf s.dev (dieOfPort p)).l2Delay ≠ 0 →
      expired s.dev (portOf s.dev p).lastRx ((dieOf s.dev (dieOfPort p)).l2Delay * ms) = true →
      ∃ t, exec (.l2DelayExpiry p) s = .next t ∧ (portOf t.dev p).l2Ask = some s.dev.now ∧
        (portOf t.dev p).quiet = 2 ∧ (portOf t.dev p).power = .l1 ∧
        (portOf t.dev p).roleLeft = 3 ∧
        t.dev.out = [.idle p, .role p (roleSent s.dev) 2 (epochOf s.dev), .idle p,
          .role p (roleSent s.dev) 0 (epochOf s.dev), .idleRun p (wakeBlocks (portOf s.dev p))] ++ s.dev.out) ∧
    (∀ u, (portOf s.dev p).l2Ask = some u → expired s.dev u (10 * us) = true →
      ∃ t, exec (.l2AnswerTimeout p) s = .next t ∧ (portOf t.dev p).l2Ask = none ∧ (portOf t.dev p).quiet = 1) ∧
    (∀ u pass, (portOf s.dev p).wakeAt = some u → (portOf s.dev p).phase = .l2Check → portUp s.dev p = true →
      ∃ t, exec (.l2ExitCheckEnd p pass) s = .next t ∧
        (pass = true → expired s.dev (portOf s.dev p).phaseAt (checkTime (portOf s.dev p).rate) = true → (portOf t.dev p).power = .l0 ∧ (portOf t.dev p).phase = .idle ∧
          (portOf t.dev p).wakeAt = none) ∧
        (pass = false → (portOf t.dev p).link ≠ .up)) ∧
    (∀ u, (portOf s.dev p).wakeAt = some u → expired s.dev u (3 * ms) = true → portUp s.dev p = true →
      ∃ t, exec (.l2ExitLimit p) s = .next t ∧ (portOf t.dev p).link ≠ .up)

/-- Completion of Ethernet reception and of flow control over time (R85, R404, R427 to R430, R435 to R440). -/
def Obligations.EthernetAndPausesComplete : Prop :=
  ∀ (s : State) (p : Nat), s.dev.dies.length = 8 →
    (isEth s.dev p = true → portUp s.dev p = true →
      (∀ l e, ∃ t, exec (.ethRxFrame p l (some e)) s = .next t ∧ (portOf t.dev p).rx = .out) ∧
      (∀ l all, (portOf s.dev p).rx = .out → all = ((portOf s.dev p).macHold.map (·.2)).getD [] ++ l →
        all.length ≤ 9728 → recordInv s.dev →
        ∃ t, exec (.ethRxFrame p l none) s = .next t ∧
          (14 ≤ all.length ∧ be all 12 2 ≠ 0x8808 → (portOf t.dev p).rx = .inFrame ∧
            (portOf t.dev p).rxFrame = some s.dev.nextId) ∧
          (all.length < 14 ∨ be all 12 2 = 0x8808 → (portOf t.dev p).rx = .out ∧ t.dev.frames = s.dev.frames ∧
            (portOf t.dev p).macHold.map (·.2) = some all)) ∧
      (∀ l, (portOf s.dev p).rx = .out → (portOf s.dev p).macHold = none → l.length ≤ 9728 → be l 12 2 = 0x8808 → fcsOk l = true → be l 14 2 = 1 → (portOf s.dev p).set.fcMode = 1 →
        0 < quantaTime s.dev p (be l 16 2) →
        ∃ t, exec (.ethRxMacControl p l) s = .next t ∧ PortCounted s t p cntPauseRx ∧
          ∀ k, k < 8 → kget? (portOf t.dev p).rxPaused k = some (s.dev.now + quantaTime s.dev p (be l 16 2))) ∧
      (∀ l k, (portOf s.dev p).rx = .out → (portOf s.dev p).macHold = none → l.length ≤ 9728 → be l 12 2 = 0x8808 → fcsOk l = true → be l 14 2 = 0x0101 → (portOf s.dev p).set.fcMode = 2 →
        k < 8 → bitOf (be l 16 2) k = true → 0 < quantaTime s.dev p (be l (18 + 2 * k) 2) →
        ∃ t, exec (.ethRxMacControl p l) s = .next t ∧
          kget? (portOf t.dev p).rxPaused k = some (s.dev.now + quantaTime s.dev p (be l (18 + 2 * k) 2)))) ∧
    (portUp s.dev p = true → (portOf s.dev p).txPaused ≠ 0 → (isEth s.dev p = true → isActive s.dev = true) →
      expired s.dev (portOf s.dev p).txPauseAt (refreshTime s.dev p) = true →
      ∃ t, exec (.pauseRefreshDue p) s = .next t ∧ (portOf t.dev p).txPauseAt = s.dev.now ∧
        (isEth s.dev p = true ∨ (portOf s.dev p).power ≠ .l2 → PortCounted s t p cntPauseTx) ∧
        (isSpindle s.dev p = true → (portOf s.dev p).power = .l2 → (portOf t.dev p).owed =
          (portOf s.dev p).owed ++ [.pause (portOf s.dev p).txPaused])) ∧
    (∀ v u, kget? (portOf s.dev p).txXoff v = some u → isSpindle s.dev p = true → portUp s.dev p = true →
      (veOf (dieOf s.dev (dieOfPort p)).tab v).valid = true → (veOf (dieOf s.dev (dieOfPort p)).tab v).port = p →
      expired s.dev u (refreshTime s.dev p) = true →
      ∃ t, exec (.veXoffRefreshDue p v) s = .next t ∧ kget? (portOf t.dev p).txXoff v = some s.dev.now ∧
        ((portOf s.dev p).power ≠ .l2 → PortCounted s t p cntVeXoffTx) ∧
        ((portOf s.dev p).power = .l2 → (portOf t.dev p).owed = (portOf s.dev p).owed ++ [.veXoff v true])) ∧
    (∀ v u, kget? (portOf s.dev p).txXoff v = some u →
      ((veOf (dieOf s.dev (dieOfPort p)).tab v).valid = false ∨ (veOf (dieOf s.dev (dieOfPort p)).tab v).port ≠ p) →
      ∃ t, exec (.veXoffRefreshDue p v) s = .next t ∧ kget? (portOf t.dev p).txXoff v = none ∧
        t.dev.out = s.dev.out) ∧
    (∀ k, ∃ t, exec (.pauseHoldExpiry p k) s = .next t ∧
      (portOf t.dev p).rxPaused = ((portOf s.dev p).rxPaused.filter fun e => !(e.1 == k && decide (e.2 ≤ s.dev.now))) ∧
      (isPeerPort s.dev p = false → portOf t.dev p = { portOf s.dev p with rxPaused := (portOf t.dev p).rxPaused })) ∧
    (∀ v, ∃ t, exec (.veXoffHoldExpiry p v) s = .next t ∧
      portOf t.dev p = { portOf s.dev p with
        rxXoff := (portOf s.dev p).rxXoff.filter fun e => !(e.1.1 == v && decide (e.2 ≤ s.dev.now)) }) ∧
    (∀ k u, kget? (portOf s.dev p).stall k = some u → portUp s.dev p = true →
      u + (portOf s.dev p).set.watchdog * ms ≤ tickSample s.dev →
      ∃ t, exec (.pauseWatchdogExpiry p k none) s = .next t ∧
        kget? (portOf t.dev p).ignore k = some (tickSample s.dev + sec)) ∧
    (∀ k v u, kget? (portOf s.dev p).veStall (v, k) = some u → portUp s.dev p = true →
      u + (portOf s.dev p).set.watchdog * ms ≤ tickSample s.dev →
      ∃ t, exec (.pauseWatchdogExpiry p k (some v)) s = .next t ∧
        kget? (portOf t.dev p).veIgnore (v, k) = some (tickSample s.dev + sec)) ∧
    (∀ k u, kget? (portOf s.dev p).ignore k = some u → u ≤ tickSample s.dev →
      ∃ t, exec (.pauseIgnorePeriodEnd p k none) s = .next t ∧ kget? (portOf t.dev p).ignore k =
        if bitOf (portOf s.dev p).set.rxMask k &&
          heldAt (portOf s.dev p).rxPaused (portOf s.dev p).pausedAt k (tickSample s.dev) then some (u + sec) else none)

/-- Completion of the turns of the header pipeline and of the reports of the anti-spoof check (R24 to R27, R164, R275).
-/
def Obligations.PipelineTurnsComplete : Prop :=
  ∀ (s : State) (n k : Nat), s.dev.dies.length = 8 → alive s.dev n = true →
    (∀ f bad, k < 4 → (dieOf s.dev n).slices.length = 4 → nextTurn s.dev n k = some f →
      (f.stage ≠ .lookup →
        (∃ t, exec (.headerPipelineTurn n ⟨k, bad⟩) s = .next t ∧ f.id ∉ (sliceOf t.dev n k).queue ∧
          (sliceOf t.dev n k).turn = localOf f.port % 24) ∧
        exec (.lpmRecirculation n ⟨k, bad⟩) s = .next s) ∧
      (f.stage = .lookup →
        (∃ t, exec (.lpmRecirculation n ⟨k, bad⟩) s = .next t ∧ (sliceOf t.dev n k).turn = localOf f.port % 24 ∧
          Counted s t n (slotSlice k cntLpmRecirc)) ∧
        exec (.headerPipelineTurn n ⟨k, bad⟩) s = .next s)) ∧
    (∀ p, dieOfPort p = n → (portOf s.dev p).spoofN ≠ 0 → mayRaise s.dev (portOf s.dev p).spoofAt sec = true →
      ∃ t, exec (.veSpoofEventDue p) s = .next t ∧ (portOf t.dev p).spoofN = 0 ∧
        (portOf t.dev p).spoofAt = some s.dev.now ∧
        ∃ d, t.dev = raise d n evVeSpoof (leBytes 2 p ++ leBytes 2 (portOf s.dev p).spoofVe
          ++ leBytes 4 (portOf s.dev p).spoofN))

/-- Completion of learning, aging and table errors (R252 to R257, R262 to R266, R281 to R286). How an entry with bad parity
is named, and where a pass begins, is the model's choice (log entry 59). -/
def Obligations.LearningComplete : Prop :=
  ∀ (s : State) (n : Nat), s.dev.dies.length = 8 → alive s.dev n = true →
    (∀ ev r, (dieOf s.dev n).learnQ = ev :: r → learns s.dev n = true → forcedBelow s.dev n 6 = false →
      ∃ t, exec (.learnEvent n) s = .next t ∧ (dieOf t.dev n).learnQ = r ∧
        (expired s.dev ev.at' (20 * us) = true → Counted s t n (slotDie cntLearnDrop) ∧
          (dieOf t.dev n).mac = (dieOf s.dev n).mac) ∧
        (expired s.dev ev.at' (20 * us) = false →
          let e : MacEntry := { key := ev.key, dest := ev.ve, tenant := ev.tenant, act := true }
          (macLookup (dieOf s.dev n) ev.key = none → macAdmits (dieOf s.dev n) ev.tenant = true →
            ∀ i, placeAt 16384 macCand (dieOf s.dev n).mac e = some (i, []) →
              (dieOf t.dev n).mac = (i, e) :: (dieOf s.dev n).mac) ∧
          (macLookup (dieOf s.dev n) ev.key = none → macAdmits (dieOf s.dev n) ev.tenant = false →
            (dieOf t.dev n).mac = (dieOf s.dev n).mac) ∧
          (∀ i old, macLookup (dieOf s.dev n) ev.key = some (i, old) → ev.move = true → old.static = false →
            (old.group = true ∨ old.dest ≠ ev.ve) → old.tenant = ev.tenant →
            macLookup (dieOf t.dev n) ev.key = some (i, e)) ∧
          (∀ i old, macLookup (dieOf s.dev n) ev.key = some (i, old) → (ev.move = false ∨ old.static = true) →
            (dieOf t.dev n).mac = (dieOf s.dev n).mac))) ∧
    (forcedBelow s.dev n 6 = true → exec (.learnEvent n) s = .next s) ∧
    (∀ ev r, (dieOf s.dev n).learnQ = ev :: r → expired s.dev ev.at' (20 * us) = true →
      ∃ t, exec (.learnEventTimeout n) s = .next t ∧ (dieOf t.dev n).learnQ = r ∧
        Counted s t n (slotDie cntLearnDrop)) ∧
    (∀ index, agingDue (dieOf s.dev n) s.dev.now index = none → exec (.agingVisit n index) s = .next s) ∧
    (∀ index w, learns s.dev n = true → index < 262144 → agingDue (dieOf s.dev n) s.dev.now index = some w →
      agingAny s.dev n (fun u => decide (u < sweepDue w 262144 index)) = false →
      (expired s.dev (sweepDue w 262144 index) (100 * ms) = true ∨
        (s.dev.pkg.engaged = false ∧ forcedBelow s.dev n 6 = false ∧ waitsBelow s.dev n 3 = false)) →
      ∃ t, exec (.agingVisit n index) s = .next t ∧ (dieOf t.dev n).ageSweep = { w with pos := index + 1 } ∧
        ∀ i e, (dieOf s.dev n).mac.find? (fun o => o.1 == index) = some (i, e) → e.static = false →
        parBad (dieOf s.dev n) 3 index = false →
        (e.act = true → (dieOf t.dev n).mac.find? (fun o => o.1 == index) =
          some (i, { e with act := false, age := 0 })) ∧
        (e.act = false → e.age < 3 → (dieOf t.dev n).mac.find? (fun o => o.1 == index) =
          some (i, { e with age := e.age + 1 })) ∧
        (e.act = false → 3 ≤ e.age → (dieOf t.dev n).mac.find? (fun o => o.1 == index) = none)) ∧
    (∀ table index, table ≤ 4 →
      ∃ t, exec (.tableParityRepair n table index) s = .next t ∧ parBad (dieOf t.dev n) table index = false ∧
        (parBad (dieOf s.dev n) table index = false → Counted s t n (slotDie (cntTblParity + table))) ∧
        (parBad (dieOf s.dev n) table index = true →
          counterOf t.dev n (slotDie (cntTblParity + table)) = counterOf s.dev n (slotDie (cntTblParity + table))) ∧
        (table ≠ 3 → (dieOf t.dev n).mac = (dieOf s.dev n).mac) ∧
        (table = 3 → (∀ o ∈ (dieOf t.dev n).mac, o.1 = index → o.2.static = true) ∨
          ∃ i e, (dieOf s.dev n).mac.find? (fun o => o.1 == index) = some (i, e) ∧ e.static = true)) ∧
    (∀ table index chipBad imageBad e, table ≤ 2 → e = kget (dieOf s.dev n).errModes table {} → e.shadow = true →
      (dieOf s.dev n).halted.contains 1 = false → index < shadowCount table →
      (sweepAt e.sweep e.period (shadowCount table) index s.dev.now = none →
        exec (.shadowCompareBlock n table index chipBad imageBad) s = .next s) ∧
      (∀ w, sweepAt e.sweep e.period (shadowCount table) index s.dev.now = some w →
        ((expired s.dev (sweepDue w (shadowCount table) index) sec = true ∧ agingForced s.dev n = false) ∨
          (s.dev.pkg.engaged = false ∧ forcedBelow s.dev n 6 = false ∧ waitsBelow s.dev n 4 = false)) →
        ∃ t, exec (.shadowCompareBlock n table index chipBad imageBad) s = .next t ∧
          (kget (dieOf t.dev n).errModes table {}).sweep = { w with pos := index + 1 } ∧
          ((chipBad || imageBad) = true → Counted s t n (slotDie (cntTblShadow + table))) ∧
          (chipBad = true → parBad (dieOf t.dev n) table index = false) ∧
          ((chipBad || imageBad) = false → t.dev.mem = s.dev.mem ∧
            counterOf t.dev n (slotDie (cntTblShadow + table)) = counterOf s.dev n (slotDie (cntTblShadow + table)))))

/-- Completion of the end of the slow path (R226 to R233, R314 to R316, R620). -/
def Obligations.SlowPathComplete : Prop :=
  ∀ (s : State) (n i : Nat) (rest : List Nat), s.dev.dies.length = 8 → alive s.dev n = true → i ∉ rest →
    (frameOf s.dev i).id = i →
    (∀ (entry : BitVec 128) (key : PRing) (pool : Option Nat), (dieOf s.dev n).puntQ = i :: rest →
      key = .punt ((frameOf s.dev i).punt.getD (0, 0)).1 →
      pool = (if (dieOf s.dev n).halted.contains 2 then none
        else fitPool (pRingOf (dieOf s.dev n) key) (sizeOf' (frameOf s.dev i))) →
      (pool = none ∨ (dieOf s.dev n).pcieUp = true ∨ (frameOf s.dev i).dropped = true) →
      ((frameOf s.dev i).dropped = true ∨ s.dev.frames.any (comesFirst s.dev n
        ((frameOf s.dev i).punt.getD (0, 0)).1 (frameOf s.dev i)) = false) →
      ∃ t, exec (.puntDelivery n entry) s = .next t ∧ (dieOf t.dev n).puntQ = rest ∧
        (pool = none ∨ (frameOf s.dev i).dropped = true → (pRingOf (dieOf t.dev n) key).write = (pRingOf (dieOf s.dev n) key).write) ∧
        (pool ≠ none → (frameOf s.dev i).dropped = false →
          (pRingOf (dieOf t.dev n) key).write = ((pRingOf (dieOf s.dev n) key).write + 1) % two32)) ∧
    (∀ (entry : BitVec 128) (key : PRing) (pool : Option Nat), (dieOf s.dev n).tapQ = i :: rest →
      key = .tap (frameOf s.dev i).mirSes.tapVf →
      pool = (if (dieOf s.dev n).halted.contains 3 || !vfsUp (dieOf s.dev n) then none
        else fitPool (pRingOf (dieOf s.dev n) key) (sizeOf' (frameOf s.dev i))) →
      (pool = none ∨ (dieOf s.dev n).pcieUp = true ∨ (frameOf s.dev i).dropped = true) →
      ∃ t, exec (.tapDelivery n entry) s = .next t ∧ (dieOf t.dev n).tapQ = rest ∧
        ((pool = none ∨ (frameOf s.dev i).dropped = true ∨
            (pRingOf (dieOf s.dev n) key).tenant ≠ (frameOf s.dev i).mirTen) →
          (pRingOf (dieOf t.dev n) key).write = (pRingOf (dieOf s.dev n) key).write) ∧
        (pool ≠ none → (frameOf s.dev i).dropped = false → (pRingOf (dieOf s.dev n) key).tenant = (frameOf s.dev i).mirTen →
          (pRingOf (dieOf t.dev n) key).write = ((pRingOf (dieOf s.dev n) key).write + 1) % two32)) ∧
    ((dieOf s.dev n).keeperQ = i :: rest → (dieOf s.dev n).keeper = .running →
      clockFrame s.dev (portOf s.dev (frameOf s.dev i).port).set.bcDomain i = false →
      ∃ t, exec (.keeperForward n) s = .next t ∧ (dieOf t.dev n).keeperQ = rest) ∧
    ((∀ j ∈ (dieOf s.dev n).keeperQ, clockFrame s.dev (portOf s.dev (frameOf s.dev j).port).set.bcDomain j = true) →
      exec (.keeperForward n) s = .next s)

/-- Completion of credits and of the VOQs (R38, R380 to R387, R421). -/
def Obligations.CreditsAndVoqsComplete : Prop :=
  ∀ s : State, s.dev.dies.length = 8 →
    (∀ p q, p < 1024 → portUp s.dev p = true → (portOf s.dev p).creditStop = false →
      (creditOrder false p (portOf s.dev p).credit7 (portOf s.dev p).creditAt).find?
        (grantable (askAll s.dev false p)) = some q →
      ∃ t, exec (.creditGrant p) s = .next t ∧ (voqOf t.dev q).balance = (voqOf s.dev q).balance + 16 ∧
        Counted s t (dieOfPort p) (slotDie cntCreditGrant)) ∧
    (∀ e q, alive s.dev e = true →
      (creditOrder true e (dieOf s.dev e).credit7 (dieOf s.dev e).creditAt).find?
        (grantable (askAll s.dev true e)) = some q →
      ∃ t, exec (.creditGrant (1024 + e)) s = .next t ∧ (voqOf t.dev q).balance = (voqOf s.dev q).balance + 16 ∧
        Counted s t e (slotDie cntCreditGrant)) ∧
    (∀ q, voqEmpty (voqOf s.dev q) = true → expired s.dev (voqOf s.dev q).emptyAt (2 * us) = true →
      ∃ t, exec (.voqIdleReturn q) s = .next t ∧ (voqOf t.dev q).balance = 0 ∧
        ((voqOf s.dev q).balance ≠ 0 → (voqOf t.dev q).room = [])) ∧
    (∀ q h r acc, acc.err = .none → (voqOf s.dev q).head = h :: r → (voqOf s.dev q).spill = false →
      alive s.dev q.die = true → alive s.dev (voqDie q) = true →
      (dieOf s.dev q.die).draining.all (fun e => e.1 != voqDie q) = true →
      (h.aborted = true → ∃ t, exec (.voqSend q acc) s = .next t ∧ (voqOf t.dev q).head = r ∧
        (voqOf t.dev q).balance = (voqOf s.dev q).balance) ∧
      (h.aborted = false → streaming s.dev q (frameOf s.dev h.fid) = true → exec (.voqSend q acc) s = .next s) ∧
      (h.aborted = false → streaming s.dev q (frameOf s.dev h.fid) = false → wholeOk (frameOf s.dev h.fid) = true →
        cellCount (sizeOf' (frameOf s.dev h.fid)) ≤ (voqOf s.dev q).balance →
        ∃ t, exec (.voqSend q acc) s = .next t ∧ (voqOf t.dev q).head = r ∧
          (voqOf t.dev q).balance = (voqOf s.dev q).balance - cellCount (sizeOf' (frameOf s.dev h.fid))) ∧
      (h.aborted = false → wholeOk (frameOf s.dev h.fid) = true →
        (voqOf s.dev q).balance < cellCount (sizeOf' (frameOf s.dev h.fid)) →
        ∃ t, exec (.voqSend q acc) s = .next t ∧ voqOf t.dev q = voqOf s.dev q)) ∧
    (∀ n, alive s.dev n = true → (dieOf s.dev n).wredAt < lastAction s.dev → (s.dev.voqs.map (·.1)).Nodup →
      ∃ t, exec (.wredAvgUpdate n) s = .next t ∧ (dieOf t.dev n).wredAt = (dieOf s.dev n).wredAt + 1 ∧
        ∀ q ∈ voqsOf s.dev n, voqOf t.dev q =
          if (wredOf s.dev q).weight = 0 then voqOf s.dev q
          else { voqOf s.dev q with
            avg := avgStep (voqOf s.dev q).avg (depthOf s.dev (voqOf s.dev q)) (wredOf s.dev q).weight })

namespace Sys2Proof.Claims

/-- No bridge between two dies in service has failed. -/
def NoBridgeFailed (d : Dev) : Prop :=
  ∀ x y, alive d x = true → alive d y = true → x < y → bridgeFailed d x y = false

end Sys2Proof.Claims

/-- Completion of the bridges' channels (R389 to R393, R398, R409). When a bridge counts as silent with the others of its
die is the model's choice (log entry 60). -/
def Obligations.BridgesComplete : Prop :=
  ∀ (s : State) (n j m a : Nat), s.dev.dies.length = 8 → (∀ x ∈ s.dev.dies, x.chans.length = 7) → alive s.dev n = true →
    farDie s.dev.part n j = some m → a = farChan s.dev.part j → alive s.dev m = true →
    ((chanOf s.dev m a).st = .up → (chanOf s.dev n j).st = .up →
      (∀ k, ∃ t, exec (.flitRx n j ⟨false, false⟩ k) s = .next t ∧ Counted s t m (slotDie (cntBridgeReplay + a)) ∧
        ((chanOf s.dev m a).tries < 15 → (chanOf t.dev m a).nak = true ∧ (chanOf t.dev m a).st = .up ∧
          (chanOf t.dev m a).tries = (chanOf s.dev m a).tries + 1) ∧
        (15 ≤ (chanOf s.dev m a).tries → (chanOf t.dev m a).st = .retraining ∧
          (chanOf t.dev n j).st = .retraining)) ∧
      (∀ k, (((chanOf s.dev m a).ctl.filter fun u => !expired s.dev u (10 * us)).length < 156 → NoBridgeFailed s.dev →
          ∃ t, exec (.flitRx n j ⟨true, true⟩ k) s = .next t ∧
            (chanOf t.dev m a).acked = ((chanOf s.dev m a).acked + 1) % 4096 ∧ (chanOf t.dev m a).tries = 0 ∧
            (chanOf t.dev m a).lastOk = s.dev.now ∧ (dieOf t.dev n).hbAt = s.dev.now ∧
            (chanOf t.dev m a).replay = (chanOf (feed s.dev m n) m a).replay) ∧
        (156 ≤ ((chanOf s.dev m a).ctl.filter fun u => !expired s.dev u (10 * us)).length → ∀ ok,
          ∃ t, exec (.flitRx n j ⟨true, ok⟩ k) s = .next t ∧ t.dev = feed s.dev m n)) ∧
      (∀ k, (chanOf (feed s.dev m n) m a).replay = [] → NoBridgeFailed s.dev →
        ∃ t, exec (.flitRx n j ⟨false, true⟩ k) s = .next t ∧ (chanOf t.dev m a).tries = 0 ∧
          (chanOf t.dev m a).lastOk = s.dev.now ∧ (dieOf t.dev n).hbAt = s.dev.now) ∧
      (∀ g r, (chanOf (feed s.dev m n) m a).replay = g :: r →
        (∀ k, k < 16 → NoBridgeFailed s.dev → ∃ t, exec (.flitRx n j ⟨false, true⟩ k) s = .next t ∧
          ((dieOf s.dev n).rxHold = [] → g.dst ≠ n → counterOf s.dev n (slotDie cntBusReplay) < two64 →
            counterOf t.dev n (slotDie cntBusReplay) = (counterOf s.dev n (slotDie cntBusReplay) + k) % two64) ∧
          (chanOf t.dev m a).acked = ((chanOf s.dev m a).acked + 1) % 4096 ∧ (chanOf t.dev m a).tries = 0 ∧
          (chanOf t.dev m a).lastOk = s.dev.now ∧ (dieOf t.dev n).hbAt = s.dev.now) ∧
        (∀ k, 16 ≤ k → ∃ t, exec (.flitRx n j ⟨false, true⟩ k) s = .next t ∧ (dieOf t.dev n).lost = true))) ∧
    (∀ g r, kget (dieOf s.dev n).relays m [] = g :: r → dealChan s.dev n m = some j → chanTakes (chanOf s.dev n j) = true →
      ((chanOf s.dev n j).relayTurn = true ∨ (kget (dieOf s.dev n).outq m []).any (wireable s.dev m) = false) →
      ∃ t o, exec (.relayFlitSend n j) s = .next t ∧ kget (dieOf t.dev n).relays m [] = r ∧
        { g with ord := o } ∈ (chanOf t.dev n j).replay) ∧
    ((chanOf s.dev n j).st = .retraining →
      ∃ t, exec (.bridgeRetrainDone n j) s = .next t ∧ (chanOf t.dev n j).st = .up ∧
        Counted s t n (slotDie (cntBridgeRetrain + j))) ∧
    ((chanOf s.dev n j).st = .up →
      ∃ t, exec (.bridgeChannelLockLoss n j) s = .next t ∧ (chanOf t.dev n j).st = .retraining ∧
        (chanOf t.dev m a).st = .retraining ∧ (chanOf t.dev n j).replay = (chanOf s.dev n j).replay) ∧
    (((chanOf s.dev n j).st = .up ∨ (chanOf s.dev n j).st = .retraining) →
      expired s.dev (chanOf s.dev n j).lastOk (10 * ms) = true →
      ∃ t, exec (.bridgeChannelFail n j) s = .next t ∧
        ((∃ k ∈ bridgeChans s.dev n m, k ≠ j ∧ (chanOf s.dev n k).st ≠ .failed) →
          (chanOf t.dev n j).st = .failed ∧ (chanOf t.dev m a).st = .failed ∧ (dieOf t.dev (max n m)).lost = false) ∧
        ((∀ k ∈ bridgeChans s.dev n m, k ≠ j → (chanOf s.dev n k).st = .failed) →
          ∀ d, d = failEnd (failEnd s.dev n j) m a →
            (dieOf t.dev (max n m)).lost = !(spanSilent d (bridgeFailAt d n m) n
              || spanSilent d (bridgeFailAt d n m) m)))

/-- Completion of the comb's allocator and audit and of the deep store's transfers (R340, R346 to R349, R363 to R367).
How many cells the Keeper asks for in a clock is the model's choice (log entry 60). -/
def Obligations.CombAndStoreComplete : Prop :=
  ∀ (s : State) (n : Nat), s.dev.dies.length = 8 → alive s.dev n = true →
    (∀ acc, acc.err = .none → ∃ t, exec (.allocatorClock n acc) s = .next t ∧
      (combOf t.dev n).rot = ((combOf s.dev n).rot + 1) % 5) ∧
    ((combOf s.dev n).audit = true → ((combOf s.dev n).held.map (·.cell)).Nodup →
      ∃ t, exec (.combAudit n) s = .next t ∧ (combOf t.dev n).audit = false ∧
        (combOf t.dev n).held = (combOf s.dev n).held.filter fun h => (usedCells s.dev n).contains h.cell) ∧
    (∀ q p, storeOn s.dev n = true → ((dieOf s.dev n).writeAt = 0 ∨ expired s.dev (dieOf s.dev n).writeAt 256 = true) →
      (rotateAfter (voqsOf s.dev n) fun q => some q == (dieOf s.dev n).writeRot).find? (pageReady s.dev) = some q →
      lowestPage (dieOf s.dev n) = some p → (packPage q ((voqOf s.dev q).tail.length + 1) (countStart s.dev q)).1 = true →
      ∃ t, exec (.pageWriteStart n) s = .next t ∧ p ∈ (dieOf t.dev n).pagesUsed ∧ (dieOf t.dev n).writeAt = s.dev.now ∧
        ∃ g ∈ (voqOf t.dev q).pages, g.idx = p ∧ g.st = .writing ∧ g.since = s.dev.now) ∧
    (∀ q p, firstPage s.dev n .writing = some (q, p) →
      ∃ t, exec (.pageWriteDone n) s = .next t ∧ Counted s t n (slotDie cntSpillPages) ∧
        ∀ g ∈ (voqOf t.dev q).pages, g.idx = p.idx → g.st = .stored) ∧
    (∀ q p l, storeOn s.dev n = true → (combOf s.dev n).readWait = some (q, p, l) → 16 ≤ l.length →
      ((dieOf s.dev n).readAt = 0 ∨ expired s.dev (dieOf s.dev n).readAt 256 = true) →
      ∃ t, exec (.readbackStart n) s = .next t ∧ (combOf t.dev n).readWait = none ∧
        ∀ g ∈ (voqOf t.dev q).pages, g.idx = p → g.st = .reading ∧ g.into = l ∧ g.since = s.dev.now) ∧
    (∀ q p word, firstPage s.dev n .reading = some (q, p) → p.ue = none →
      ∃ t, exec (.readbackDone n word .none) s = .next t ∧ p.idx ∉ (dieOf t.dev n).pagesUsed ∧
        Counted s t n (slotDie cntReadbackPages))

/-- Completion of the schedulers and of the replication engine (R403 to R408, R444 to R447, R460, R461, R474). That
a frame in transmission is finished when its die stops is the model's choice (log entry 56; R49). -/
def Obligations.TransmissionComplete : Prop :=
  ∀ s : State, s.dev.dies.length = 8 →
    (∀ p h q, canTransmit s.dev p = true → portShaperOpen s.dev p = true → windowOver s.dev = false →
      (portOf s.dev p).next = none → (∀ x, (portOf s.dev p).tx = some x → (copyOf s.dev x.copy).fed = true) →
      choose (markHolds (settleHold (reapBad p s.dev.copies.length s.dev) p) p) p false = some (h, q) →
      ∃ t, exec (.schedulerSelect p) s = .next t ∧
        ((portOf s.dev p).tx = none → (portOf t.dev p).next = none ∧
          ∃ x, (portOf t.dev p).tx = some x ∧ x.copy = h.copy ∧ x.start = s.dev.now) ∧
        ((portOf s.dev p).tx ≠ none → (portOf t.dev p).tx = (portOf s.dev p).tx ∧
          (portOf t.dev p).next = some (h.copy, h.cost))) ∧
    (∀ p i cost, canTransmit s.dev p = true → (portOf s.dev p).next = some (i, cost) → (portOf s.dev p).tx = none →
      (copyOf s.dev i).bad = none →
      ∃ t x, exec (.schedulerSelect p) s = .next t ∧ (portOf t.dev p).next = none ∧ (portOf t.dev p).tx = some x ∧
        x.copy = i ∧ x.start = s.dev.now) ∧
    (∀ p, windowOver s.dev = true → (portOf s.dev p).next = none → exec (.schedulerSelect p) s = .next s) ∧
    (∀ p x, (portOf s.dev p).tx = some x →
      (∀ b, (copyOf s.dev x.copy).bad = some b →
        ∃ t, exec (.frameTxEnd p) s = .next t ∧ (portOf t.dev p).lastTx = s.dev.now ∧
          ((portOf s.dev p).next = none → (portOf t.dev p).tx = none)) ∧
      ((copyOf s.dev x.copy).bad = none →
        readyToEnd (copyOf s.dev x.copy) (frameOf s.dev (copyOf s.dev x.copy).fid) = true →
        expired s.dev x.start (wireTime s.dev p (wireBytes (frameOf s.dev (copyOf s.dev x.copy).fid))) = true →
        ∃ t, exec (.frameTxEnd p) s = .next t ∧ (portOf t.dev p).lastTx = s.dev.now ∧
          ((portOf s.dev p).next = none → (portOf t.dev p).tx = none)) ∧
      ((copyOf s.dev x.copy).bad = none →
        readyToEnd (copyOf s.dev x.copy) (frameOf s.dev (copyOf s.dev x.copy).fid) = false →
        exec (.frameTxEnd p) s = .next s)) ∧
    (∀ p, alive s.dev (dieOfPort p) = true → (portOf s.dev p).holdTick < lastAction s.dev →
      ∃ t, exec (.energyHoldCheck p) s = .next t ∧ (portOf t.dev p).holdTick = lastAction s.dev ∧
        ∀ c i u, c < 8 → i ∈ waitingIn s.dev p c → (copyOf s.dev i).id = i → (copyOf s.dev i).port = p →
          (copyOf s.dev i).holdAt = some u → u + 10 * ms ≤ tickSample s.dev →
          ∀ k ∈ t.dev.copies, k.id ≠ i) ∧
    (∀ n m, alive s.dev n = true → (dieOf s.dev n).mcIn.find? (fun m => m.arrived && !m.begun && !m.slow) = some m →
      (frameOf s.dev m.fid).id = m.fid →
      ∃ t, exec (.mcCopyJudge n) s = .next t ∧
        ∀ k ∈ (dieOf t.dev n).mcIn, k.fid = m.fid → k.begun = true) ∧
    (∀ n, alive s.dev n = true → (dieOf s.dev n).residueAt < lastAction s.dev →
      ∃ t, exec (.mcResidueTick n) s = .next t ∧ (dieOf t.dev n).residueAt = lastAction s.dev)

/-- What a step is: on a queue with a command in front, exec of that command on the state with the queue's rest; on an
empty queue one grain tick passes, which is the model's choice (log entry 5). -/
def Obligations.StepRunsFront : Prop :=
  (∀ (s : State) (i : Instr) (rest : List Instr),
    step { s with pending := i :: rest } = exec i { s with pending := rest }) ∧
  ∀ s : State, s.pending = [] → step s = .next { s with dev := { s.dev with now := s.dev.now + 16 } }

/-- Every command, event and effect of the table answers a next state in every state, and leaves the queue alone. -/
def Obligations.EveryCommandAnswers : Prop :=
  ∀ (i : Instr) (s : State), ∃ t, exec i s = .next t ∧ t.pending = s.pending

namespace Sys2Proof.Claims

open Sys2Proof.Machine

/-- What always holds of the AON domain: under LOCK.SVC nothing is armed and FUSE_PROG_EN is clear; d0 cannot be parked;
LEASE_FORCE reads 0; the counts and fields fit their widths; ROLLBACK is at most 64; the flash has its four regions. -/
def aonInv (a : Aon) : Prop :=
  (a.lock = true → a.armed = none ∧ a.fuseEn = none) ∧ a.park.getLsbD 0 = false ∧ a.force = 0 ∧ a.fails < 65536 ∧
    a.sel < 16 ∧ a.rollback ≤ 64 ∧ a.flash.length = 4

/-- The shape of the device: eight dies, each with eight rings, four slices and seven channels, six places of
the forager and three tails in every punt or tap ring; sixteen domains; host memory in its canonical form. -/
def shapeInv (d : Dev) : Prop :=
  d.dies.length = 8 ∧ d.domains.length = 16 ∧ Memory.wf d.mem = true ∧
    ∀ x ∈ d.dies, x.rings.length = 8 ∧ x.slices.length = 4 ∧ x.chans.length = 7 ∧ x.walk.length = 6 ∧
      ∀ r ∈ x.pRings, r.2.tail.length = 3

/-- The command resets the package. -/
def isReset (i : Instr) : Prop := i = .pwrOkFall ∨ i = .railUndervoltage

end Sys2Proof.Claims

/-- What the spec says of the machine after reset; the invariants of AonInvariantKept, ShapeKept and RecordsKept hold then. -/
def Obligations.ResetValues : Prop :=
  (∀ n, (tenantOf State.reset.dev.master n).valid = false ∧ (veOf State.reset.dev.master n).valid = false) ∧
  (∀ n b, bdOf (dieOf State.reset.dev n).tab b = { floodEn := false, group := 0, routeEn := false, mac := 0 }) ∧
  (∀ g, (groupOf State.reset.dev.master g).valid = false) ∧
  (∀ p, (portOf State.reset.dev p).set.wcRelease = true ∧ (portOf State.reset.dev p).set.overhead = 20 ∧
    (portOf State.reset.dev p).set.watchdog = 200 ∧ (portOf State.reset.dev p).set.ctEn = true ∧
    kget (portOf State.reset.dev p).set.groupMap p 0 = 0) ∧
  (∀ n, (dieOf State.reset.dev n).home = 0 ∧ (dieOf State.reset.dev n).masked = [] ∧
    (dieOf State.reset.dev n).agePeriod = 60 ∧ (dieOf State.reset.dev n).scrub = [240, 240, 240] ∧
    (dieOf State.reset.dev n).l2Delay = 100 ∧ (dieOf State.reset.dev n).k = 65536 ∧
    ∀ i, counterOf State.reset.dev n i = 0) ∧
  State.reset.dev.master.vxlanPort = 4789 ∧ State.reset.dev.master.genevePort = 6081 ∧
  State.reset.dev.pkg.k = 0 ∧ State.reset.dev.pkg.residue = 100 ∧
  State.reset.dev.domains = List.replicate 16 { anchor := 0, offset := 0, rate := 0 } ∧
  State.reset.dev.pps.outWidth = 100000000 ∧ State.reset.dev.ha.lease = 20 ∧ State.reset.dev.ha.holdDown = 30 ∧
  State.reset.aon.lock = false ∧ State.reset.dev.actions = [] ∧ State.reset.dev.ports = [] ∧ State.reset.pending = [] ∧
  aonInv State.reset.aon ∧ shapeInv State.reset.dev ∧ recordInv State.reset.dev

/-- No step breaks the invariant of the AON domain (R580, R594 to R597, R685). -/
def Obligations.AonInvariantKept : Prop :=
  ∀ s t : State, aonInv s.aon → step s = .next t → aonInv t.aon

/-- No step changes the shape of the device, and every step keeps host memory canonical. -/
def Obligations.ShapeKept : Prop :=
  ∀ s t : State, shapeInv s.dev → step s = .next t → shapeInv t.dev

/-- No step names a record twice, lists a VOQ twice or makes a HELD cell HELD again (R337 to R339; log entry 12). -/
def Obligations.RecordsKept : Prop :=
  ∀ s t : State, recordInv s.dev → step s = .next t → recordInv t.dev

/-- R594. LOCK.SVC is one bit for the whole package: a write of 1 to LOCK on any die sets it, every die's LOCK reads it,
and only a package reset clears it. -/
def Obligations.LockSvc : Prop :=
  ∀ s : State,
    (∀ n (v : Word), regsUp s.dev n = true → bitOf v.toNat 0 = true →
      ∃ t, exec (.lockWrite n v) s = .next t ∧ t.aon.lock = true ∧
        ∀ m, regsUp t.dev m = true → regRead t m .pf0 0x300 = 1) ∧
    (∀ n, regsUp s.dev n = true → s.aon.lock = false → regRead s n .pf0 0x300 = 0) ∧
    (∀ i t, exec i s = .next t → s.aon.lock = true → t.aon.lock = false → isReset i ∧ s.dev.pwrOk = true) ∧
    (s.dev.pwrOk = true → ∀ i, isReset i → ∃ t, exec i s = .next t ∧ t.aon.lock = false)

/-- Whole-machine rules of the guarded registers, the fuses and the flash (R595, R596, R671, R685, R688, R691). -/
def Obligations.GuardedStateIsKept : Prop :=
  ∀ (i : Instr) (s t : State), exec i s = .next t →
    (s.aon.lock = true → ¬isReset i → t.aon.override = s.aon.override ∧ t.aon.park = s.aon.park ∧
      t.aon.force = s.aon.force ∧ t.aon.opKey = s.aon.opKey ∧ t.aon.rollback = s.aon.rollback ∧
      t.aon.dbgDisable = s.aon.dbgDisable ∧ (t.aon.fuseEn = none ∨ t.aon.fuseEn = s.aon.fuseEn)) ∧
    t.aon.fuses = s.aon.fuses ∧ s.aon.rollback ≤ t.aon.rollback ∧
    (s.aon.opKey.isSome = true → t.aon.opKey = s.aon.opKey) ∧
    (s.aon.dbgDisable = true → t.aon.dbgDisable = true) ∧
    (t.aon.opKey ≠ s.aon.opKey ∨ t.aon.rollback ≠ s.aon.rollback ∨ t.aon.dbgDisable ≠ s.aon.dbgDisable →
      ∃ c digest, i = .secFuseProgram c digest ∧ fuseEnabled s.aon s.dev = true) ∧
    (t.aon.flash ≠ s.aon.flash →
      (∃ c image write, i = .secFwWrite c image write) ∨ ∃ c block ok, i = .secCfgWrite c block ok)

/-- A refused command changes nothing but its ring's FETCH and what its completion changes, and its status is the first
cause of R553 (R552, R553, R574). -/
def Obligations.RefusedCommandChangesNothing : Prop :=
  ∀ (d : Dev) (c : Cmd) (sp : CmdSpec) (r : Reply), canStart d c = true → refusal d c sp = some r →
    body (runCmd sp c d) = body d ∧
    (∃ e, body e = body d ∧ ringOf e c.die c.ring =
        { ringOf d c.die c.ring with fetch := ((ringOf d c.die c.ring).fetch + 1) % two16 } ∧
      runCmd sp c d = complete e c sp.opcode 0 r) ∧
    ((c.die ≠ 0 ∧ sp.any = false) → r.status = stBadArg ∧ r.detail = 0) ∧
    ((c.die = 0 ∨ sp.any = true) → d.run ≠ .recovery →
      ∀ l, l = entryChecks c sp.wide ++ shiftChk 16 sp.checks →
        (∀ k ∈ l, k.unsup = true → r.status = stUnsupported ∧ r.detail ≤ k.off ∧
          ∃ j ∈ l, j.unsup = true ∧ j.off = r.detail) ∧
        ((∀ k ∈ l, k.unsup = false) → ∀ k ∈ l, k.bad = true → r.status = stBadArg ∧ r.detail ≤ k.off ∧
          ∃ j ∈ l, j.bad = true ∧ j.off = r.detail) ∧
        ((∀ k ∈ l, k.unsup = false ∧ k.bad = false) →
          (sp.kind = .w → isActive d = false → r.status = stNotActive) ∧
          ((sp.kind ≠ .w ∨ (isActive d = true ∧ d.ha.handover = false)) →
            (∀ st, sp.guard = some st → r.status = st) ∧
            (sp.guard = none → restartMask d sp.keepers ≠ 0 →
              r.status = stRestarting ∧ r.detail = restartMask d sp.keepers * 65536) ∧
            (sp.guard = none → restartMask d sp.keepers = 0 → sp.late = some r.status))))

/-- R548 and R549: a completion that may be written is written to the next entry of the completion ring, with its PHASE,
and WRITE rises by 1; one that must wait is held behind those held already. -/
def Obligations.CompletionIsWrittenOrHeld : Prop :=
  ∀ (d : Dev) (c : Cmd) (opcode seq : Nat) (r : Reply) (q : Ring) (p : Pend), d.dies.length = 8 →
    Memory.wf d.mem = true → q = ringOf d c.die c.ring → p = mkPend d c opcode seq r →
    (cplReady d p = false → complete d c opcode seq r = { d with pends := d.pends ++ [p] }) ∧
    (cplReady d p = true → q.enable = true → alive d c.die = true → (dieOf d c.die).rings.length = 8 → c.ring < 8 →
      (ringOf (complete d c opcode seq r) c.die c.ring).write = (q.write + 1) % two16 ∧
      (complete d c opcode seq r).pends = d.pends ∧
      (seq = 0 → c.result = 0 → ∀ a, memGet (complete d c opcode seq r).mem a = memGet (memWrite d.mem
        (q.cplBase + 32 * (q.write % 256))
        (leBytes 4 c.tag.toNat ++ leBytes 2 opcode ++ leBytes 1 r.status
          ++ leBytes 1 (if q.write / 256 % 2 = 0 then 1 else 0) ++ leBytes 2 q.fetch ++ leBytes 1 c.ring
          ++ leBytes 1 c.die ++ leBytes 4 r.detail ++ (padTo 64 r.result).take 16)) a) ∧
      memRead (complete d c opcode seq r).mem (q.cplBase + 32 * (q.write % 256)) 4 = leBytes 4 c.tag.toNat)

/-- The commands of kind R change nothing but what their completions change (R574): every form of them, refused ones and
those whose ring cannot start included. Values that the spec does not state are the model's own count (log entry 18). -/
def Obligations.ReadCommandsChangeNothing : Prop :=
  ∀ (s t : State) (c : Cmd) (i : Instr),
    (i ∈ readCommands c ∨ (∃ eye held, i = .portEyeScan c eye held) ∨
      (i = .memLogRead c ∧ bitOf (pf c.params 2 1) 0 = false)) →
    exec i s = .next t →
      t.aon = s.aon ∧ t.pending = s.pending ∧ body { t.dev with unstated := s.dev.unstated } = body s.dev

/-- Frames of the commands: what each leaves unchanged outside its own object. -/
def Obligations.CommandFrames : Prop :=
  ∀ (s t : State) (c : Cmd) (i : Instr) (l : List Byte), exec i s = .next t →
    (i ∈ dieCommands c l → t.aon = s.aon ∧ aroundKept s.dev t.dev) ∧
    (i ∈ tableCommands c l → t.aon = s.aon ∧ aroundKept s.dev { t.dev with
      master := s.dev.master
      mirror := s.dev.mirror }) ∧
    (i = .mirSet c → t.aon = s.aon ∧ aroundKept s.dev { t.dev with
      master := s.dev.master
      mirror := s.dev.mirror
      mirSeq := s.dev.mirSeq }) ∧
    ((i = .qosMcSet c ∨ i = .pwrCapSet c) → t.aon = s.aon ∧ aroundKept s.dev { t.dev with pkg := s.dev.pkg } ∧
      ∀ n, (dieOf t.dev n).body = (dieOf s.dev n).body) ∧
    ((i = .clsPortSet c ∨ i = .qosCtSet c ∨ i = .timePortSet c) → t.aon = s.aon ∧
      around { t.dev with ports := s.dev.ports } = around s.dev ∧
      (∀ p, p ≠ pf c.params 0 2 → (p ≠ 0x5C ∨ journaling s.dev = false) → portOf t.dev p = portOf s.dev p) ∧
      (portOf t.dev (pf c.params 0 2)).link = (portOf s.dev (pf c.params 0 2)).link ∧
      ∀ n, (dieOf t.dev n).body = (dieOf s.dev n).body) ∧
    ((i = .polSet c ∨ i = .qosWredSet c) → ∀ n, n < 8 → bitOf (pf c.params 0 1) n = false →
      (dieOf t.dev n).body = (dieOf s.dev n).body) ∧
    ((i = .polSet c) → ∀ n k, k ≠ pf c.params 2 2 → policerOf (dieOf t.dev n) k = policerOf (dieOf s.dev n) k) ∧
    (i = .cntClear c → ∀ n k, (n ≠ pf c.params 0 1 ∨ k < pf c.params 4 4 ∨ pf c.params 4 4 + pf c.params 8 4 ≤ k) →
      k < generalCounters → counterOf t.dev n k = counterOf s.dev n k)

/-- Frames of rows that are no Rontis command: what each leaves unchanged outside its die, its port or its lane. -/
def Obligations.EventFrames : Prop :=
  ∀ (s t : State) (i : Instr), exec i s = .next t →
    (∀ n k (w : Word), (i = .cmdDbWrite n k w ∨ i = .cplDbWrite n k w ∨ i = .evtDbWrite n w ∨ i = .indDataWrite n w ∨
      i = .indDataRead n ∨ i = .ringEnable n ∨ i = .ringDisable n ∨ i = .evtRingEnable n ∨ i = .evtRingDisable n ∨
      i = .indirectWriteEffect n) → t.aon = s.aon ∧ around t.dev = around s.dev) ∧
    (∀ n fn off (w : Word) be, i = .registerWrite n fn off w be → around t.dev = around s.dev ∧
      t.aon.lock = s.aon.lock ∧ t.aon.park = s.aon.park ∧ t.aon.override = s.aon.override) ∧
    (∀ n k x chipBad imageBad, (i = .learnEventTimeout n ∨ i = .overQuotaEventDue n k ∨ i = .combAudit n ∨
        i = .shadowCompareBlock n k x chipBad imageBad) →
      t.aon = s.aon ∧ around t.dev = around s.dev ∧ ∀ m, m ≠ n → (dieOf t.dev m).body = (dieOf s.dev m).body) ∧
    (∀ n k x, (i = .learnEvent n ∨ i = .agingVisit n k ∨ i = .tableParityRepair n k x) →
      t.aon = s.aon ∧ aroundKept s.dev t.dev ∧ ∀ m, m ≠ n → (dieOf t.dev m).body = (dieOf s.dev m).body) ∧
    (∀ n k, i = .relayFlitSend n k → t.aon = s.aon ∧ around t.dev = around s.dev ∧
      ∀ m, { dieOf t.dev m with
        chans := (dieOf s.dev m).chans
        outq := (dieOf s.dev m).outq
        dealt := (dieOf s.dev m).dealt
        relays := (dieOf s.dev m).relays } = dieOf s.dev m) ∧
    (∀ p k, i = .pauseHoldExpiry p k → t.aon = s.aon ∧ around { t.dev with ports := s.dev.ports } = around s.dev ∧
      (∀ q, q ≠ p → portOf t.dev q = portOf s.dev q) ∧
      (isPeerPort s.dev p = false → t.dev = { s.dev with ports := t.dev.ports })) ∧
    (∀ p k, (i = .veXoffHoldExpiry p k ∨ i = .smokerHistoryReset p) → t.aon = s.aon ∧
      t.dev = { s.dev with ports := t.dev.ports } ∧ ∀ q, q ≠ p → portOf t.dev q = portOf s.dev q) ∧
    (∀ l v, i = .signalDetectChange l v → t.aon = s.aon ∧ around { t.dev with lanes := s.dev.lanes } = around s.dev ∧
      (∀ k, k ≠ l → laneOf t.dev k = laneOf s.dev k) ∧ ∀ n, (dieOf t.dev n).body = (dieOf s.dev n).body) ∧
    (∀ n, i = .wredAvgUpdate n → t.aon = s.aon ∧ around { t.dev with voqs := s.dev.voqs } = around s.dev ∧
      (∀ q : VoqKey, q.die ≠ n → voqOf t.dev q = voqOf s.dev q) ∧
      ∀ m, m ≠ n → dieOf t.dev m = dieOf s.dev m)

/-- Host memory: a write is read back and leaves every other byte alone, and the form stays canonical. The comb: a cell
that is granted was listed and not HELD and is HELD afterwards (R337 to R339); a return frees a HELD cell; the return of a
cell that is not HELD is refused and counted, leaves the comb as it is and stops there (R338). -/
def Obligations.HostMemoryAndCombCells : Prop :=
  (∀ (d : Dev) (n : Nat) (fn : Fn) (a : Nat) (l : List Byte), Memory.wf d.mem = true → l.length ≤ two64 →
    (hostWrite d n fn a l).out = .hostWrite n fn a l :: d.out ∧
    Memory.wf (hostWrite d n fn a l).mem = true ∧ memRead (hostWrite d n fn a l).mem a l.length = l ∧
    ∀ x, (∀ i, i < l.length → x ≠ (a + i) % two64) → memGet (hostWrite d n fn a l).mem x = memGet d.mem x) ∧
  (∀ (d : Dev) (n p c : Nat), n < d.dies.length → (drawCell d n p).1 = some c →
    isHeld (combOf d n) c = false ∧ unlisted (combOf d n) c = false ∧
    isHeld (combOf (drawCell d n p).2 n) c = true ∧
    ∀ k, k ≠ c → isHeld (combOf (drawCell d n p).2 n) k = isHeld (combOf d n) k) ∧
  ∀ (d : Dev) (n c : Nat) (r : List Nat), n < d.dies.length →
    (isHeld (combOf d n) c = true → isHeld (combOf (returnCells n [c] d) n) c = false ∧
      ∀ k, k ≠ c → isHeld (combOf (returnCells n [c] d) n) k = isHeld (combOf d n) k) ∧
    (isHeld (combOf d n) c = false → returnCells n (c :: r) d = returnCells n [c] d ∧
      (combOf (returnCells n [c] d) n).free = (combOf d n).free ∧
      (combOf (returnCells n [c] d) n).held = (combOf d n).held ∧
      counterOf (returnCells n [c] d) n (slotDie cntCombDoubleFree) =
        (counterOf d n (slotDie cntCombDoubleFree) + 1) % two64)

/-- R26: a frame that arrives while its port holds 1,024 entries of the ingress queue, or while the slice holds 4,096, is
dropped as DR_INGRESS_OVERRUN. -/
def Obligations.IngressOverrun : Prop :=
  ∀ (s : State) (p : Nat), s.dev.dies.length = 8 → (portOf s.dev p).rx = .out → pipelined s.dev p = true →
    recordInv s.dev →
    (1024 ≤ portEntries s.dev (dieOfPort p) (sliceOfPort p) p ∨
      4096 ≤ (sliceOf s.dev (dieOfPort p) (sliceOfPort p)).queue.length) →
    (∀ h, receiving s.dev p = true → (portOf s.dev p).roleSeen = true → hcrcOk h = true →
      ∃ t, exec (.rxStartBlock p h) s = .next t ∧
        Counted s t (dieOfPort p) (slotDie (cntDieDropFrames + drIngressOverrun)) ∧
        PortCounted s t p (cntPortDropFrames + drIngressOverrun) ∧
        (sliceOf t.dev (dieOfPort p) (sliceOfPort p)).queue = (sliceOf s.dev (dieOfPort p) (sliceOfPort p)).queue) ∧
    (∀ l e all, isEth s.dev p = true → portUp s.dev p = true →
      all = ((portOf s.dev p).macHold.map (·.2)).getD [] ++ l → (e = some .none → isMacControl all = false) →
      (e = none → 9728 < all.length ∨ (14 ≤ all.length ∧ be all 12 2 ≠ 0x8808)) →
      ∃ t, exec (.ethRxFrame p l e) s = .next t ∧
        Counted s t (dieOfPort p) (slotDie (cntDieDropFrames + drIngressOverrun)) ∧
        PortCounted s t p (cntPortDropFrames + drIngressOverrun) ∧
        (sliceOf t.dev (dieOfPort p) (sliceOfPort p)).queue = (sliceOf s.dev (dieOfPort p) (sliceOfPort p)).queue)

/-- R71: signal detect is debounced over 10 µs; a change that reverts within 10 µs is ignored and counted in
CNT_SD_GLITCH. -/
def Obligations.SignalDetectDebounce : Prop :=
  ∀ (s : State) (l : Nat), s.dev.dies.length = 8 → alive s.dev (dieOfPort l) = true →
    ((laneOf s.dev l).sdRaw = (laneOf s.dev l).sd →
      ∃ t, exec (.signalDetectChange l (!(laneOf s.dev l).sd)) s = .next t ∧ (laneOf t.dev l).sd = (laneOf s.dev l).sd ∧
        (laneOf t.dev l).sdRaw = !(laneOf s.dev l).sd ∧ (laneOf t.dev l).sdSince = some s.dev.now ∧
        t.dev.ports = s.dev.ports) ∧
    (∀ u, (laneOf s.dev l).sdSince = some u → expired s.dev u (10 * us) = false →
      exec (.signalDetectValid l) s = .next s) ∧
    (∀ u, (laneOf s.dev l).sdSince = some u → (laneOf s.dev l).sdRaw ≠ (laneOf s.dev l).sd →
      expired s.dev u (10 * us) = false → alive s.dev (dieOfPort ((portOfLane s.dev l).getD l)) = true →
      ∃ t, exec (.signalDetectChange l (laneOf s.dev l).sd) s = .next t ∧ (laneOf t.dev l).sd = (laneOf s.dev l).sd ∧
        (laneOf t.dev l).sdSince = none ∧ t.dev.ports = s.dev.ports ∧
        PortCounted s t ((portOfLane s.dev l).getD l) cntSdGlitch) ∧
    (∀ u, (laneOf s.dev l).sdSince = some u → expired s.dev u (10 * us) = true →
      ∃ t, exec (.signalDetectValid l) s = .next t ∧ (laneOf t.dev l).sd = (laneOf s.dev l).sdRaw ∧
        (laneOf t.dev l).sdSince = none)
end

