-- ==== Sys2Proof/Laws/State.lean ====
section
/-! SUPPORT. What each shared update of the device leaves alone: one lemma per field per update, so that no proof unfolds
a record update. -/

namespace Sys2Proof.Machine

variable (d : Dev)

@[simp] theorem onDie_part (n : Nat) (f : Die → Die) : (onDie d n f).part = d.part := rfl
@[simp] theorem onDie_now (n : Nat) (f : Die → Die) : (onDie d n f).now = d.now := rfl
@[simp] theorem onDie_grain0 (n : Nat) (f : Die → Die) : (onDie d n f).grain0 = d.grain0 := rfl
@[simp] theorem onDie_run (n : Nat) (f : Die → Die) : (onDie d n f).run = d.run := rfl
@[simp] theorem onDie_thermal (n : Nat) (f : Die → Die) : (onDie d n f).thermal = d.thermal := rfl
@[simp] theorem onDie_coolAt (n : Nat) (f : Die → Die) : (onDie d n f).coolAt = d.coolAt := rfl
@[simp] theorem onDie_fault (n : Nat) (f : Die → Die) : (onDie d n f).fault = d.fault := rfl
@[simp] theorem onDie_queen (n : Nat) (f : Die → Die) : (onDie d n f).queen = d.queen := rfl
@[simp] theorem onDie_ppsIn (n : Nat) (f : Die → Die) : (onDie d n f).ppsIn = d.ppsIn := rfl
@[simp] theorem onDie_pwrOk (n : Nat) (f : Die → Die) : (onDie d n f).pwrOk = d.pwrOk := rfl
@[simp] theorem onDie_alert (n : Nat) (f : Die → Die) : (onDie d n f).alert = d.alert := rfl
@[simp] theorem onDie_fwVersion (n : Nat) (f : Die → Die) : (onDie d n f).fwVersion = d.fwVersion := rfl
@[simp] theorem onDie_serial0 (n : Nat) (f : Die → Die) : (onDie d n f).serial0 = d.serial0 := rfl
@[simp] theorem onDie_sensorTrim (n : Nat) (f : Die → Die) : (onDie d n f).sensorTrim = d.sensorTrim := rfl
@[simp] theorem onDie_railCal (n : Nat) (f : Die → Die) : (onDie d n f).railCal = d.railCal := rfl
@[simp] theorem onDie_readyOnce (n : Nat) (f : Die → Die) : (onDie d n f).readyOnce = d.readyOnce := rfl
@[simp] theorem onDie_lostAtBoot (n : Nat) (f : Die → Die) : (onDie d n f).lostAtBoot = d.lostAtBoot := rfl
@[simp] theorem onDie_ports (n : Nat) (f : Die → Die) : (onDie d n f).ports = d.ports := rfl
@[simp] theorem onDie_lanes (n : Nat) (f : Die → Die) : (onDie d n f).lanes = d.lanes := rfl
@[simp] theorem onDie_frames (n : Nat) (f : Die → Die) : (onDie d n f).frames = d.frames := rfl
@[simp] theorem onDie_copies (n : Nat) (f : Die → Die) : (onDie d n f).copies = d.copies := rfl
@[simp] theorem onDie_voqs (n : Nat) (f : Die → Die) : (onDie d n f).voqs = d.voqs := rfl
@[simp] theorem onDie_nextId (n : Nat) (f : Die → Die) : (onDie d n f).nextId = d.nextId := rfl
@[simp] theorem onDie_master (n : Nat) (f : Die → Die) : (onDie d n f).master = d.master := rfl
@[simp] theorem onDie_mirSeq (n : Nat) (f : Die → Die) : (onDie d n f).mirSeq = d.mirSeq := rfl
@[simp] theorem onDie_unstated (n : Nat) (f : Die → Die) : (onDie d n f).unstated = d.unstated := rfl
@[simp] theorem onDie_mirror (n : Nat) (f : Die → Die) : (onDie d n f).mirror = d.mirror := rfl
@[simp] theorem onDie_mirrorOk (n : Nat) (f : Die → Die) : (onDie d n f).mirrorOk = d.mirrorOk := rfl
@[simp] theorem onDie_pkg (n : Nat) (f : Die → Die) : (onDie d n f).pkg = d.pkg := rfl
@[simp] theorem onDie_ha (n : Nat) (f : Die → Die) : (onDie d n f).ha = d.ha := rfl
@[simp] theorem onDie_domains (n : Nat) (f : Die → Die) : (onDie d n f).domains = d.domains := rfl
@[simp] theorem onDie_bcSlave (n : Nat) (f : Die → Die) : (onDie d n f).bcSlave = d.bcSlave := rfl
@[simp] theorem onDie_pps (n : Nat) (f : Die → Die) : (onDie d n f).pps = d.pps := rfl
@[simp] theorem onDie_actions (n : Nat) (f : Die → Die) : (onDie d n f).actions = d.actions := rfl
@[simp] theorem onDie_nextAction (n : Nat) (f : Die → Die) : (onDie d n f).nextAction = d.nextAction := rfl
@[simp] theorem onDie_pends (n : Nat) (f : Die → Die) : (onDie d n f).pends = d.pends := rfl
@[simp] theorem onDie_mem (n : Nat) (f : Die → Die) : (onDie d n f).mem = d.mem := rfl
@[simp] theorem onDie_out (n : Nat) (f : Die → Die) : (onDie d n f).out = d.out := rfl

@[simp] theorem onPort_part (p : Nat) (f : Port → Port) : (onPort d p f).part = d.part := rfl
@[simp] theorem onPort_now (p : Nat) (f : Port → Port) : (onPort d p f).now = d.now := rfl
@[simp] theorem onPort_grain0 (p : Nat) (f : Port → Port) : (onPort d p f).grain0 = d.grain0 := rfl
@[simp] theorem onPort_run (p : Nat) (f : Port → Port) : (onPort d p f).run = d.run := rfl
@[simp] theorem onPort_thermal (p : Nat) (f : Port → Port) : (onPort d p f).thermal = d.thermal := rfl
@[simp] theorem onPort_coolAt (p : Nat) (f : Port → Port) : (onPort d p f).coolAt = d.coolAt := rfl
@[simp] theorem onPort_fault (p : Nat) (f : Port → Port) : (onPort d p f).fault = d.fault := rfl
@[simp] theorem onPort_queen (p : Nat) (f : Port → Port) : (onPort d p f).queen = d.queen := rfl
@[simp] theorem onPort_ppsIn (p : Nat) (f : Port → Port) : (onPort d p f).ppsIn = d.ppsIn := rfl
@[simp] theorem onPort_pwrOk (p : Nat) (f : Port → Port) : (onPort d p f).pwrOk = d.pwrOk := rfl
@[simp] theorem onPort_alert (p : Nat) (f : Port → Port) : (onPort d p f).alert = d.alert := rfl
@[simp] theorem onPort_fwVersion (p : Nat) (f : Port → Port) : (onPort d p f).fwVersion = d.fwVersion := rfl
@[simp] theorem onPort_serial0 (p : Nat) (f : Port → Port) : (onPort d p f).serial0 = d.serial0 := rfl
@[simp] theorem onPort_sensorTrim (p : Nat) (f : Port → Port) : (onPort d p f).sensorTrim = d.sensorTrim := rfl
@[simp] theorem onPort_railCal (p : Nat) (f : Port → Port) : (onPort d p f).railCal = d.railCal := rfl
@[simp] theorem onPort_readyOnce (p : Nat) (f : Port → Port) : (onPort d p f).readyOnce = d.readyOnce := rfl
@[simp] theorem onPort_lostAtBoot (p : Nat) (f : Port → Port) : (onPort d p f).lostAtBoot = d.lostAtBoot := rfl
@[simp] theorem onPort_dies (p : Nat) (f : Port → Port) : (onPort d p f).dies = d.dies := rfl
@[simp] theorem onPort_lanes (p : Nat) (f : Port → Port) : (onPort d p f).lanes = d.lanes := rfl
@[simp] theorem onPort_frames (p : Nat) (f : Port → Port) : (onPort d p f).frames = d.frames := rfl
@[simp] theorem onPort_copies (p : Nat) (f : Port → Port) : (onPort d p f).copies = d.copies := rfl
@[simp] theorem onPort_voqs (p : Nat) (f : Port → Port) : (onPort d p f).voqs = d.voqs := rfl
@[simp] theorem onPort_nextId (p : Nat) (f : Port → Port) : (onPort d p f).nextId = d.nextId := rfl
@[simp] theorem onPort_master (p : Nat) (f : Port → Port) : (onPort d p f).master = d.master := rfl
@[simp] theorem onPort_mirSeq (p : Nat) (f : Port → Port) : (onPort d p f).mirSeq = d.mirSeq := rfl
@[simp] theorem onPort_unstated (p : Nat) (f : Port → Port) : (onPort d p f).unstated = d.unstated := rfl
@[simp] theorem onPort_mirror (p : Nat) (f : Port → Port) : (onPort d p f).mirror = d.mirror := rfl
@[simp] theorem onPort_mirrorOk (p : Nat) (f : Port → Port) : (onPort d p f).mirrorOk = d.mirrorOk := rfl
@[simp] theorem onPort_pkg (p : Nat) (f : Port → Port) : (onPort d p f).pkg = d.pkg := rfl
@[simp] theorem onPort_ha (p : Nat) (f : Port → Port) : (onPort d p f).ha = d.ha := rfl
@[simp] theorem onPort_domains (p : Nat) (f : Port → Port) : (onPort d p f).domains = d.domains := rfl
@[simp] theorem onPort_bcSlave (p : Nat) (f : Port → Port) : (onPort d p f).bcSlave = d.bcSlave := rfl
@[simp] theorem onPort_pps (p : Nat) (f : Port → Port) : (onPort d p f).pps = d.pps := rfl
@[simp] theorem onPort_actions (p : Nat) (f : Port → Port) : (onPort d p f).actions = d.actions := rfl
@[simp] theorem onPort_nextAction (p : Nat) (f : Port → Port) : (onPort d p f).nextAction = d.nextAction := rfl
@[simp] theorem onPort_pends (p : Nat) (f : Port → Port) : (onPort d p f).pends = d.pends := rfl
@[simp] theorem onPort_mem (p : Nat) (f : Port → Port) : (onPort d p f).mem = d.mem := rfl
@[simp] theorem onPort_out (p : Nat) (f : Port → Port) : (onPort d p f).out = d.out := rfl

@[simp] theorem onLane_part (l : Nat) (f : Lane → Lane) : (onLane d l f).part = d.part := rfl
@[simp] theorem onLane_now (l : Nat) (f : Lane → Lane) : (onLane d l f).now = d.now := rfl
@[simp] theorem onLane_grain0 (l : Nat) (f : Lane → Lane) : (onLane d l f).grain0 = d.grain0 := rfl
@[simp] theorem onLane_run (l : Nat) (f : Lane → Lane) : (onLane d l f).run = d.run := rfl
@[simp] theorem onLane_thermal (l : Nat) (f : Lane → Lane) : (onLane d l f).thermal = d.thermal := rfl
@[simp] theorem onLane_coolAt (l : Nat) (f : Lane → Lane) : (onLane d l f).coolAt = d.coolAt := rfl
@[simp] theorem onLane_fault (l : Nat) (f : Lane → Lane) : (onLane d l f).fault = d.fault := rfl
@[simp] theorem onLane_queen (l : Nat) (f : Lane → Lane) : (onLane d l f).queen = d.queen := rfl
@[simp] theorem onLane_ppsIn (l : Nat) (f : Lane → Lane) : (onLane d l f).ppsIn = d.ppsIn := rfl
@[simp] theorem onLane_pwrOk (l : Nat) (f : Lane → Lane) : (onLane d l f).pwrOk = d.pwrOk := rfl
@[simp] theorem onLane_alert (l : Nat) (f : Lane → Lane) : (onLane d l f).alert = d.alert := rfl
@[simp] theorem onLane_fwVersion (l : Nat) (f : Lane → Lane) : (onLane d l f).fwVersion = d.fwVersion := rfl
@[simp] theorem onLane_serial0 (l : Nat) (f : Lane → Lane) : (onLane d l f).serial0 = d.serial0 := rfl
@[simp] theorem onLane_sensorTrim (l : Nat) (f : Lane → Lane) : (onLane d l f).sensorTrim = d.sensorTrim := rfl
@[simp] theorem onLane_railCal (l : Nat) (f : Lane → Lane) : (onLane d l f).railCal = d.railCal := rfl
@[simp] theorem onLane_readyOnce (l : Nat) (f : Lane → Lane) : (onLane d l f).readyOnce = d.readyOnce := rfl
@[simp] theorem onLane_lostAtBoot (l : Nat) (f : Lane → Lane) : (onLane d l f).lostAtBoot = d.lostAtBoot := rfl
@[simp] theorem onLane_dies (l : Nat) (f : Lane → Lane) : (onLane d l f).dies = d.dies := rfl
@[simp] theorem onLane_ports (l : Nat) (f : Lane → Lane) : (onLane d l f).ports = d.ports := rfl
@[simp] theorem onLane_frames (l : Nat) (f : Lane → Lane) : (onLane d l f).frames = d.frames := rfl
@[simp] theorem onLane_copies (l : Nat) (f : Lane → Lane) : (onLane d l f).copies = d.copies := rfl
@[simp] theorem onLane_voqs (l : Nat) (f : Lane → Lane) : (onLane d l f).voqs = d.voqs := rfl
@[simp] theorem onLane_nextId (l : Nat) (f : Lane → Lane) : (onLane d l f).nextId = d.nextId := rfl
@[simp] theorem onLane_master (l : Nat) (f : Lane → Lane) : (onLane d l f).master = d.master := rfl
@[simp] theorem onLane_mirSeq (l : Nat) (f : Lane → Lane) : (onLane d l f).mirSeq = d.mirSeq := rfl
@[simp] theorem onLane_unstated (l : Nat) (f : Lane → Lane) : (onLane d l f).unstated = d.unstated := rfl
@[simp] theorem onLane_mirror (l : Nat) (f : Lane → Lane) : (onLane d l f).mirror = d.mirror := rfl
@[simp] theorem onLane_mirrorOk (l : Nat) (f : Lane → Lane) : (onLane d l f).mirrorOk = d.mirrorOk := rfl
@[simp] theorem onLane_pkg (l : Nat) (f : Lane → Lane) : (onLane d l f).pkg = d.pkg := rfl
@[simp] theorem onLane_ha (l : Nat) (f : Lane → Lane) : (onLane d l f).ha = d.ha := rfl
@[simp] theorem onLane_domains (l : Nat) (f : Lane → Lane) : (onLane d l f).domains = d.domains := rfl
@[simp] theorem onLane_bcSlave (l : Nat) (f : Lane → Lane) : (onLane d l f).bcSlave = d.bcSlave := rfl
@[simp] theorem onLane_pps (l : Nat) (f : Lane → Lane) : (onLane d l f).pps = d.pps := rfl
@[simp] theorem onLane_actions (l : Nat) (f : Lane → Lane) : (onLane d l f).actions = d.actions := rfl
@[simp] theorem onLane_nextAction (l : Nat) (f : Lane → Lane) : (onLane d l f).nextAction = d.nextAction := rfl
@[simp] theorem onLane_pends (l : Nat) (f : Lane → Lane) : (onLane d l f).pends = d.pends := rfl
@[simp] theorem onLane_mem (l : Nat) (f : Lane → Lane) : (onLane d l f).mem = d.mem := rfl
@[simp] theorem onLane_out (l : Nat) (f : Lane → Lane) : (onLane d l f).out = d.out := rfl

@[simp] theorem onFrame_part (i : Nat) (f : Frame → Frame) : (onFrame d i f).part = d.part := rfl
@[simp] theorem onFrame_now (i : Nat) (f : Frame → Frame) : (onFrame d i f).now = d.now := rfl
@[simp] theorem onFrame_grain0 (i : Nat) (f : Frame → Frame) : (onFrame d i f).grain0 = d.grain0 := rfl
@[simp] theorem onFrame_run (i : Nat) (f : Frame → Frame) : (onFrame d i f).run = d.run := rfl
@[simp] theorem onFrame_thermal (i : Nat) (f : Frame → Frame) : (onFrame d i f).thermal = d.thermal := rfl
@[simp] theorem onFrame_coolAt (i : Nat) (f : Frame → Frame) : (onFrame d i f).coolAt = d.coolAt := rfl
@[simp] theorem onFrame_fault (i : Nat) (f : Frame → Frame) : (onFrame d i f).fault = d.fault := rfl
@[simp] theorem onFrame_queen (i : Nat) (f : Frame → Frame) : (onFrame d i f).queen = d.queen := rfl
@[simp] theorem onFrame_ppsIn (i : Nat) (f : Frame → Frame) : (onFrame d i f).ppsIn = d.ppsIn := rfl
@[simp] theorem onFrame_pwrOk (i : Nat) (f : Frame → Frame) : (onFrame d i f).pwrOk = d.pwrOk := rfl
@[simp] theorem onFrame_alert (i : Nat) (f : Frame → Frame) : (onFrame d i f).alert = d.alert := rfl
@[simp] theorem onFrame_fwVersion (i : Nat) (f : Frame → Frame) : (onFrame d i f).fwVersion = d.fwVersion := rfl
@[simp] theorem onFrame_serial0 (i : Nat) (f : Frame → Frame) : (onFrame d i f).serial0 = d.serial0 := rfl
@[simp] theorem onFrame_sensorTrim (i : Nat) (f : Frame → Frame) : (onFrame d i f).sensorTrim = d.sensorTrim := rfl
@[simp] theorem onFrame_railCal (i : Nat) (f : Frame → Frame) : (onFrame d i f).railCal = d.railCal := rfl
@[simp] theorem onFrame_readyOnce (i : Nat) (f : Frame → Frame) : (onFrame d i f).readyOnce = d.readyOnce := rfl
@[simp] theorem onFrame_lostAtBoot (i : Nat) (f : Frame → Frame) : (onFrame d i f).lostAtBoot = d.lostAtBoot := rfl
@[simp] theorem onFrame_dies (i : Nat) (f : Frame → Frame) : (onFrame d i f).dies = d.dies := rfl
@[simp] theorem onFrame_ports (i : Nat) (f : Frame → Frame) : (onFrame d i f).ports = d.ports := rfl
@[simp] theorem onFrame_lanes (i : Nat) (f : Frame → Frame) : (onFrame d i f).lanes = d.lanes := rfl
@[simp] theorem onFrame_copies (i : Nat) (f : Frame → Frame) : (onFrame d i f).copies = d.copies := rfl
@[simp] theorem onFrame_voqs (i : Nat) (f : Frame → Frame) : (onFrame d i f).voqs = d.voqs := rfl
@[simp] theorem onFrame_nextId (i : Nat) (f : Frame → Frame) : (onFrame d i f).nextId = d.nextId := rfl
@[simp] theorem onFrame_master (i : Nat) (f : Frame → Frame) : (onFrame d i f).master = d.master := rfl
@[simp] theorem onFrame_mirSeq (i : Nat) (f : Frame → Frame) : (onFrame d i f).mirSeq = d.mirSeq := rfl
@[simp] theorem onFrame_unstated (i : Nat) (f : Frame → Frame) : (onFrame d i f).unstated = d.unstated := rfl
@[simp] theorem onFrame_mirror (i : Nat) (f : Frame → Frame) : (onFrame d i f).mirror = d.mirror := rfl
@[simp] theorem onFrame_mirrorOk (i : Nat) (f : Frame → Frame) : (onFrame d i f).mirrorOk = d.mirrorOk := rfl
@[simp] theorem onFrame_pkg (i : Nat) (f : Frame → Frame) : (onFrame d i f).pkg = d.pkg := rfl
@[simp] theorem onFrame_ha (i : Nat) (f : Frame → Frame) : (onFrame d i f).ha = d.ha := rfl
@[simp] theorem onFrame_domains (i : Nat) (f : Frame → Frame) : (onFrame d i f).domains = d.domains := rfl
@[simp] theorem onFrame_bcSlave (i : Nat) (f : Frame → Frame) : (onFrame d i f).bcSlave = d.bcSlave := rfl
@[simp] theorem onFrame_pps (i : Nat) (f : Frame → Frame) : (onFrame d i f).pps = d.pps := rfl
@[simp] theorem onFrame_actions (i : Nat) (f : Frame → Frame) : (onFrame d i f).actions = d.actions := rfl
@[simp] theorem onFrame_nextAction (i : Nat) (f : Frame → Frame) : (onFrame d i f).nextAction = d.nextAction := rfl
@[simp] theorem onFrame_pends (i : Nat) (f : Frame → Frame) : (onFrame d i f).pends = d.pends := rfl
@[simp] theorem onFrame_mem (i : Nat) (f : Frame → Frame) : (onFrame d i f).mem = d.mem := rfl
@[simp] theorem onFrame_out (i : Nat) (f : Frame → Frame) : (onFrame d i f).out = d.out := rfl

@[simp] theorem onCopy_part (i : Nat) (f : Copy → Copy) : (onCopy d i f).part = d.part := rfl
@[simp] theorem onCopy_now (i : Nat) (f : Copy → Copy) : (onCopy d i f).now = d.now := rfl
@[simp] theorem onCopy_grain0 (i : Nat) (f : Copy → Copy) : (onCopy d i f).grain0 = d.grain0 := rfl
@[simp] theorem onCopy_run (i : Nat) (f : Copy → Copy) : (onCopy d i f).run = d.run := rfl
@[simp] theorem onCopy_thermal (i : Nat) (f : Copy → Copy) : (onCopy d i f).thermal = d.thermal := rfl
@[simp] theorem onCopy_coolAt (i : Nat) (f : Copy → Copy) : (onCopy d i f).coolAt = d.coolAt := rfl
@[simp] theorem onCopy_fault (i : Nat) (f : Copy → Copy) : (onCopy d i f).fault = d.fault := rfl
@[simp] theorem onCopy_queen (i : Nat) (f : Copy → Copy) : (onCopy d i f).queen = d.queen := rfl
@[simp] theorem onCopy_ppsIn (i : Nat) (f : Copy → Copy) : (onCopy d i f).ppsIn = d.ppsIn := rfl
@[simp] theorem onCopy_pwrOk (i : Nat) (f : Copy → Copy) : (onCopy d i f).pwrOk = d.pwrOk := rfl
@[simp] theorem onCopy_alert (i : Nat) (f : Copy → Copy) : (onCopy d i f).alert = d.alert := rfl
@[simp] theorem onCopy_fwVersion (i : Nat) (f : Copy → Copy) : (onCopy d i f).fwVersion = d.fwVersion := rfl
@[simp] theorem onCopy_serial0 (i : Nat) (f : Copy → Copy) : (onCopy d i f).serial0 = d.serial0 := rfl
@[simp] theorem onCopy_sensorTrim (i : Nat) (f : Copy → Copy) : (onCopy d i f).sensorTrim = d.sensorTrim := rfl
@[simp] theorem onCopy_railCal (i : Nat) (f : Copy → Copy) : (onCopy d i f).railCal = d.railCal := rfl
@[simp] theorem onCopy_readyOnce (i : Nat) (f : Copy → Copy) : (onCopy d i f).readyOnce = d.readyOnce := rfl
@[simp] theorem onCopy_lostAtBoot (i : Nat) (f : Copy → Copy) : (onCopy d i f).lostAtBoot = d.lostAtBoot := rfl
@[simp] theorem onCopy_dies (i : Nat) (f : Copy → Copy) : (onCopy d i f).dies = d.dies := rfl
@[simp] theorem onCopy_ports (i : Nat) (f : Copy → Copy) : (onCopy d i f).ports = d.ports := rfl
@[simp] theorem onCopy_lanes (i : Nat) (f : Copy → Copy) : (onCopy d i f).lanes = d.lanes := rfl
@[simp] theorem onCopy_frames (i : Nat) (f : Copy → Copy) : (onCopy d i f).frames = d.frames := rfl
@[simp] theorem onCopy_voqs (i : Nat) (f : Copy → Copy) : (onCopy d i f).voqs = d.voqs := rfl
@[simp] theorem onCopy_nextId (i : Nat) (f : Copy → Copy) : (onCopy d i f).nextId = d.nextId := rfl
@[simp] theorem onCopy_master (i : Nat) (f : Copy → Copy) : (onCopy d i f).master = d.master := rfl
@[simp] theorem onCopy_mirSeq (i : Nat) (f : Copy → Copy) : (onCopy d i f).mirSeq = d.mirSeq := rfl
@[simp] theorem onCopy_unstated (i : Nat) (f : Copy → Copy) : (onCopy d i f).unstated = d.unstated := rfl
@[simp] theorem onCopy_mirror (i : Nat) (f : Copy → Copy) : (onCopy d i f).mirror = d.mirror := rfl
@[simp] theorem onCopy_mirrorOk (i : Nat) (f : Copy → Copy) : (onCopy d i f).mirrorOk = d.mirrorOk := rfl
@[simp] theorem onCopy_pkg (i : Nat) (f : Copy → Copy) : (onCopy d i f).pkg = d.pkg := rfl
@[simp] theorem onCopy_ha (i : Nat) (f : Copy → Copy) : (onCopy d i f).ha = d.ha := rfl
@[simp] theorem onCopy_domains (i : Nat) (f : Copy → Copy) : (onCopy d i f).domains = d.domains := rfl
@[simp] theorem onCopy_bcSlave (i : Nat) (f : Copy → Copy) : (onCopy d i f).bcSlave = d.bcSlave := rfl
@[simp] theorem onCopy_pps (i : Nat) (f : Copy → Copy) : (onCopy d i f).pps = d.pps := rfl
@[simp] theorem onCopy_actions (i : Nat) (f : Copy → Copy) : (onCopy d i f).actions = d.actions := rfl
@[simp] theorem onCopy_nextAction (i : Nat) (f : Copy → Copy) : (onCopy d i f).nextAction = d.nextAction := rfl
@[simp] theorem onCopy_pends (i : Nat) (f : Copy → Copy) : (onCopy d i f).pends = d.pends := rfl
@[simp] theorem onCopy_mem (i : Nat) (f : Copy → Copy) : (onCopy d i f).mem = d.mem := rfl
@[simp] theorem onCopy_out (i : Nat) (f : Copy → Copy) : (onCopy d i f).out = d.out := rfl

@[simp] theorem onVoq_part (q : VoqKey) (f : Voq → Voq) : (onVoq d q f).part = d.part := rfl
@[simp] theorem onVoq_now (q : VoqKey) (f : Voq → Voq) : (onVoq d q f).now = d.now := rfl
@[simp] theorem onVoq_grain0 (q : VoqKey) (f : Voq → Voq) : (onVoq d q f).grain0 = d.grain0 := rfl
@[simp] theorem onVoq_run (q : VoqKey) (f : Voq → Voq) : (onVoq d q f).run = d.run := rfl
@[simp] theorem onVoq_thermal (q : VoqKey) (f : Voq → Voq) : (onVoq d q f).thermal = d.thermal := rfl
@[simp] theorem onVoq_coolAt (q : VoqKey) (f : Voq → Voq) : (onVoq d q f).coolAt = d.coolAt := rfl
@[simp] theorem onVoq_fault (q : VoqKey) (f : Voq → Voq) : (onVoq d q f).fault = d.fault := rfl
@[simp] theorem onVoq_queen (q : VoqKey) (f : Voq → Voq) : (onVoq d q f).queen = d.queen := rfl
@[simp] theorem onVoq_ppsIn (q : VoqKey) (f : Voq → Voq) : (onVoq d q f).ppsIn = d.ppsIn := rfl
@[simp] theorem onVoq_pwrOk (q : VoqKey) (f : Voq → Voq) : (onVoq d q f).pwrOk = d.pwrOk := rfl
@[simp] theorem onVoq_alert (q : VoqKey) (f : Voq → Voq) : (onVoq d q f).alert = d.alert := rfl
@[simp] theorem onVoq_fwVersion (q : VoqKey) (f : Voq → Voq) : (onVoq d q f).fwVersion = d.fwVersion := rfl
@[simp] theorem onVoq_serial0 (q : VoqKey) (f : Voq → Voq) : (onVoq d q f).serial0 = d.serial0 := rfl
@[simp] theorem onVoq_sensorTrim (q : VoqKey) (f : Voq → Voq) : (onVoq d q f).sensorTrim = d.sensorTrim := rfl
@[simp] theorem onVoq_railCal (q : VoqKey) (f : Voq → Voq) : (onVoq d q f).railCal = d.railCal := rfl
@[simp] theorem onVoq_readyOnce (q : VoqKey) (f : Voq → Voq) : (onVoq d q f).readyOnce = d.readyOnce := rfl
@[simp] theorem onVoq_lostAtBoot (q : VoqKey) (f : Voq → Voq) : (onVoq d q f).lostAtBoot = d.lostAtBoot := rfl
@[simp] theorem onVoq_dies (q : VoqKey) (f : Voq → Voq) : (onVoq d q f).dies = d.dies := rfl
@[simp] theorem onVoq_ports (q : VoqKey) (f : Voq → Voq) : (onVoq d q f).ports = d.ports := rfl
@[simp] theorem onVoq_lanes (q : VoqKey) (f : Voq → Voq) : (onVoq d q f).lanes = d.lanes := rfl
@[simp] theorem onVoq_frames (q : VoqKey) (f : Voq → Voq) : (onVoq d q f).frames = d.frames := rfl
@[simp] theorem onVoq_copies (q : VoqKey) (f : Voq → Voq) : (onVoq d q f).copies = d.copies := rfl
@[simp] theorem onVoq_nextId (q : VoqKey) (f : Voq → Voq) : (onVoq d q f).nextId = d.nextId := rfl
@[simp] theorem onVoq_master (q : VoqKey) (f : Voq → Voq) : (onVoq d q f).master = d.master := rfl
@[simp] theorem onVoq_mirSeq (q : VoqKey) (f : Voq → Voq) : (onVoq d q f).mirSeq = d.mirSeq := rfl
@[simp] theorem onVoq_unstated (q : VoqKey) (f : Voq → Voq) : (onVoq d q f).unstated = d.unstated := rfl
@[simp] theorem onVoq_mirror (q : VoqKey) (f : Voq → Voq) : (onVoq d q f).mirror = d.mirror := rfl
@[simp] theorem onVoq_mirrorOk (q : VoqKey) (f : Voq → Voq) : (onVoq d q f).mirrorOk = d.mirrorOk := rfl
@[simp] theorem onVoq_pkg (q : VoqKey) (f : Voq → Voq) : (onVoq d q f).pkg = d.pkg := rfl
@[simp] theorem onVoq_ha (q : VoqKey) (f : Voq → Voq) : (onVoq d q f).ha = d.ha := rfl
@[simp] theorem onVoq_domains (q : VoqKey) (f : Voq → Voq) : (onVoq d q f).domains = d.domains := rfl
@[simp] theorem onVoq_bcSlave (q : VoqKey) (f : Voq → Voq) : (onVoq d q f).bcSlave = d.bcSlave := rfl
@[simp] theorem onVoq_pps (q : VoqKey) (f : Voq → Voq) : (onVoq d q f).pps = d.pps := rfl
@[simp] theorem onVoq_actions (q : VoqKey) (f : Voq → Voq) : (onVoq d q f).actions = d.actions := rfl
@[simp] theorem onVoq_nextAction (q : VoqKey) (f : Voq → Voq) : (onVoq d q f).nextAction = d.nextAction := rfl
@[simp] theorem onVoq_pends (q : VoqKey) (f : Voq → Voq) : (onVoq d q f).pends = d.pends := rfl
@[simp] theorem onVoq_mem (q : VoqKey) (f : Voq → Voq) : (onVoq d q f).mem = d.mem := rfl
@[simp] theorem onVoq_out (q : VoqKey) (f : Voq → Voq) : (onVoq d q f).out = d.out := rfl

@[simp] theorem emit_part (o : Out) : (emit d o).part = d.part := rfl
@[simp] theorem emit_now (o : Out) : (emit d o).now = d.now := rfl
@[simp] theorem emit_grain0 (o : Out) : (emit d o).grain0 = d.grain0 := rfl
@[simp] theorem emit_run (o : Out) : (emit d o).run = d.run := rfl
@[simp] theorem emit_thermal (o : Out) : (emit d o).thermal = d.thermal := rfl
@[simp] theorem emit_coolAt (o : Out) : (emit d o).coolAt = d.coolAt := rfl
@[simp] theorem emit_fault (o : Out) : (emit d o).fault = d.fault := rfl
@[simp] theorem emit_queen (o : Out) : (emit d o).queen = d.queen := rfl
@[simp] theorem emit_ppsIn (o : Out) : (emit d o).ppsIn = d.ppsIn := rfl
@[simp] theorem emit_pwrOk (o : Out) : (emit d o).pwrOk = d.pwrOk := rfl
@[simp] theorem emit_alert (o : Out) : (emit d o).alert = d.alert := rfl
@[simp] theorem emit_fwVersion (o : Out) : (emit d o).fwVersion = d.fwVersion := rfl
@[simp] theorem emit_serial0 (o : Out) : (emit d o).serial0 = d.serial0 := rfl
@[simp] theorem emit_sensorTrim (o : Out) : (emit d o).sensorTrim = d.sensorTrim := rfl
@[simp] theorem emit_railCal (o : Out) : (emit d o).railCal = d.railCal := rfl
@[simp] theorem emit_readyOnce (o : Out) : (emit d o).readyOnce = d.readyOnce := rfl
@[simp] theorem emit_lostAtBoot (o : Out) : (emit d o).lostAtBoot = d.lostAtBoot := rfl
@[simp] theorem emit_dies (o : Out) : (emit d o).dies = d.dies := rfl
@[simp] theorem emit_ports (o : Out) : (emit d o).ports = d.ports := rfl
@[simp] theorem emit_lanes (o : Out) : (emit d o).lanes = d.lanes := rfl
@[simp] theorem emit_frames (o : Out) : (emit d o).frames = d.frames := rfl
@[simp] theorem emit_copies (o : Out) : (emit d o).copies = d.copies := rfl
@[simp] theorem emit_voqs (o : Out) : (emit d o).voqs = d.voqs := rfl
@[simp] theorem emit_nextId (o : Out) : (emit d o).nextId = d.nextId := rfl
@[simp] theorem emit_master (o : Out) : (emit d o).master = d.master := rfl
@[simp] theorem emit_mirSeq (o : Out) : (emit d o).mirSeq = d.mirSeq := rfl
@[simp] theorem emit_unstated (o : Out) : (emit d o).unstated = d.unstated := rfl
@[simp] theorem emit_mirror (o : Out) : (emit d o).mirror = d.mirror := rfl
@[simp] theorem emit_mirrorOk (o : Out) : (emit d o).mirrorOk = d.mirrorOk := rfl
@[simp] theorem emit_pkg (o : Out) : (emit d o).pkg = d.pkg := rfl
@[simp] theorem emit_ha (o : Out) : (emit d o).ha = d.ha := rfl
@[simp] theorem emit_domains (o : Out) : (emit d o).domains = d.domains := rfl
@[simp] theorem emit_bcSlave (o : Out) : (emit d o).bcSlave = d.bcSlave := rfl
@[simp] theorem emit_pps (o : Out) : (emit d o).pps = d.pps := rfl
@[simp] theorem emit_actions (o : Out) : (emit d o).actions = d.actions := rfl
@[simp] theorem emit_nextAction (o : Out) : (emit d o).nextAction = d.nextAction := rfl
@[simp] theorem emit_pends (o : Out) : (emit d o).pends = d.pends := rfl
@[simp] theorem emit_mem (o : Out) : (emit d o).mem = d.mem := rfl

@[simp] theorem hostWrite_part (n : Nat) (fn : Fn) (a : Nat) (l : List Byte) : (hostWrite d n fn a l).part = d.part := rfl
@[simp] theorem hostWrite_now (n : Nat) (fn : Fn) (a : Nat) (l : List Byte) : (hostWrite d n fn a l).now = d.now := rfl
@[simp] theorem hostWrite_grain0 (n : Nat) (fn : Fn) (a : Nat) (l : List Byte) : (hostWrite d n fn a l).grain0 = d.grain0 := rfl
@[simp] theorem hostWrite_run (n : Nat) (fn : Fn) (a : Nat) (l : List Byte) : (hostWrite d n fn a l).run = d.run := rfl
@[simp] theorem hostWrite_thermal (n : Nat) (fn : Fn) (a : Nat) (l : List Byte) : (hostWrite d n fn a l).thermal = d.thermal := rfl
@[simp] theorem hostWrite_coolAt (n : Nat) (fn : Fn) (a : Nat) (l : List Byte) : (hostWrite d n fn a l).coolAt = d.coolAt := rfl
@[simp] theorem hostWrite_fault (n : Nat) (fn : Fn) (a : Nat) (l : List Byte) : (hostWrite d n fn a l).fault = d.fault := rfl
@[simp] theorem hostWrite_queen (n : Nat) (fn : Fn) (a : Nat) (l : List Byte) : (hostWrite d n fn a l).queen = d.queen := rfl
@[simp] theorem hostWrite_ppsIn (n : Nat) (fn : Fn) (a : Nat) (l : List Byte) : (hostWrite d n fn a l).ppsIn = d.ppsIn := rfl
@[simp] theorem hostWrite_pwrOk (n : Nat) (fn : Fn) (a : Nat) (l : List Byte) : (hostWrite d n fn a l).pwrOk = d.pwrOk := rfl
@[simp] theorem hostWrite_alert (n : Nat) (fn : Fn) (a : Nat) (l : List Byte) : (hostWrite d n fn a l).alert = d.alert := rfl
@[simp] theorem hostWrite_fwVersion (n : Nat) (fn : Fn) (a : Nat) (l : List Byte) : (hostWrite d n fn a l).fwVersion = d.fwVersion := rfl
@[simp] theorem hostWrite_serial0 (n : Nat) (fn : Fn) (a : Nat) (l : List Byte) : (hostWrite d n fn a l).serial0 = d.serial0 := rfl
@[simp] theorem hostWrite_sensorTrim (n : Nat) (fn : Fn) (a : Nat) (l : List Byte) : (hostWrite d n fn a l).sensorTrim = d.sensorTrim := rfl
@[simp] theorem hostWrite_railCal (n : Nat) (fn : Fn) (a : Nat) (l : List Byte) : (hostWrite d n fn a l).railCal = d.railCal := rfl
@[simp] theorem hostWrite_readyOnce (n : Nat) (fn : Fn) (a : Nat) (l : List Byte) : (hostWrite d n fn a l).readyOnce = d.readyOnce := rfl
@[simp] theorem hostWrite_lostAtBoot (n : Nat) (fn : Fn) (a : Nat) (l : List Byte) : (hostWrite d n fn a l).lostAtBoot = d.lostAtBoot := rfl
@[simp] theorem hostWrite_dies (n : Nat) (fn : Fn) (a : Nat) (l : List Byte) : (hostWrite d n fn a l).dies = d.dies := rfl
@[simp] theorem hostWrite_ports (n : Nat) (fn : Fn) (a : Nat) (l : List Byte) : (hostWrite d n fn a l).ports = d.ports := rfl
@[simp] theorem hostWrite_lanes (n : Nat) (fn : Fn) (a : Nat) (l : List Byte) : (hostWrite d n fn a l).lanes = d.lanes := rfl
@[simp] theorem hostWrite_frames (n : Nat) (fn : Fn) (a : Nat) (l : List Byte) : (hostWrite d n fn a l).frames = d.frames := rfl
@[simp] theorem hostWrite_copies (n : Nat) (fn : Fn) (a : Nat) (l : List Byte) : (hostWrite d n fn a l).copies = d.copies := rfl
@[simp] theorem hostWrite_voqs (n : Nat) (fn : Fn) (a : Nat) (l : List Byte) : (hostWrite d n fn a l).voqs = d.voqs := rfl
@[simp] theorem hostWrite_nextId (n : Nat) (fn : Fn) (a : Nat) (l : List Byte) : (hostWrite d n fn a l).nextId = d.nextId := rfl
@[simp] theorem hostWrite_master (n : Nat) (fn : Fn) (a : Nat) (l : List Byte) : (hostWrite d n fn a l).master = d.master := rfl
@[simp] theorem hostWrite_mirSeq (n : Nat) (fn : Fn) (a : Nat) (l : List Byte) : (hostWrite d n fn a l).mirSeq = d.mirSeq := rfl
@[simp] theorem hostWrite_unstated (n : Nat) (fn : Fn) (a : Nat) (l : List Byte) : (hostWrite d n fn a l).unstated = d.unstated := rfl
@[simp] theorem hostWrite_mirror (n : Nat) (fn : Fn) (a : Nat) (l : List Byte) : (hostWrite d n fn a l).mirror = d.mirror := rfl
@[simp] theorem hostWrite_mirrorOk (n : Nat) (fn : Fn) (a : Nat) (l : List Byte) : (hostWrite d n fn a l).mirrorOk = d.mirrorOk := rfl
@[simp] theorem hostWrite_pkg (n : Nat) (fn : Fn) (a : Nat) (l : List Byte) : (hostWrite d n fn a l).pkg = d.pkg := rfl
@[simp] theorem hostWrite_ha (n : Nat) (fn : Fn) (a : Nat) (l : List Byte) : (hostWrite d n fn a l).ha = d.ha := rfl
@[simp] theorem hostWrite_domains (n : Nat) (fn : Fn) (a : Nat) (l : List Byte) : (hostWrite d n fn a l).domains = d.domains := rfl
@[simp] theorem hostWrite_bcSlave (n : Nat) (fn : Fn) (a : Nat) (l : List Byte) : (hostWrite d n fn a l).bcSlave = d.bcSlave := rfl
@[simp] theorem hostWrite_pps (n : Nat) (fn : Fn) (a : Nat) (l : List Byte) : (hostWrite d n fn a l).pps = d.pps := rfl
@[simp] theorem hostWrite_actions (n : Nat) (fn : Fn) (a : Nat) (l : List Byte) : (hostWrite d n fn a l).actions = d.actions := rfl
@[simp] theorem hostWrite_nextAction (n : Nat) (fn : Fn) (a : Nat) (l : List Byte) : (hostWrite d n fn a l).nextAction = d.nextAction := rfl
@[simp] theorem hostWrite_pends (n : Nat) (fn : Fn) (a : Nat) (l : List Byte) : (hostWrite d n fn a l).pends = d.pends := rfl

@[simp] theorem emit_out (o : Out) : (emit d o).out = o :: d.out := rfl
@[simp] theorem hostWrite_mem (n : Nat) (fn : Fn) (a : Nat) (l : List Byte) : (hostWrite d n fn a l).mem = memWrite d.mem a l := rfl
@[simp] theorem hostWrite_out (n : Nat) (fn : Fn) (a : Nat) (l : List Byte) : (hostWrite d n fn a l).out = .hostWrite n fn a l :: d.out := rfl

end Sys2Proof.Machine
end

