-- ==== Sys2Proof/Laws/Lists.lean ====
section
/-! SUPPORT. Keyed lists, indexed updates, and the records they hold: dies, ports, lanes, VOQs and slices read after they
are written. -/

namespace Sys2Proof.Machine

section Keyed
variable {κ α : Type} [DecidableEq κ]

@[simp] theorem kget_kput_same (l : List (κ × α)) (k : κ) (v x : α) : kget (kput l k v) k x = v := by
  induction l with
  | nil => simp [kput, kget]
  | cons e r ih =>
    obtain ⟨k', v'⟩ := e
    by_cases h : k' = k <;> simp [kput, kget, h, ih]

theorem kget_kput_other (l : List (κ × α)) {k j : κ} (v x : α) (h : j ≠ k) : kget (kput l k v) j x = kget l j x := by
  induction l with
  | nil => simp [kput, kget, h.symm]
  | cons e r ih =>
    obtain ⟨k', v'⟩ := e
    by_cases hk : k' = k
    · subst hk; simp [kput, kget, h.symm]
    · simp only [kput, if_neg hk, kget, ih]

theorem kget_kput (l : List (κ × α)) (k j : κ) (v x : α) :
    kget (kput l k v) j x = if j = k then v else kget l j x := by
  split
  · next h => subst h; simp
  · next h => exact kget_kput_other l v x h

@[simp] theorem kdel_kput_same (l : List (κ × α)) (k : κ) (v : α) : kdel (kput l k v) k = kdel l k := by
  induction l with
  | nil => simp [kput, kdel]
  | cons e r ih =>
    obtain ⟨k', v'⟩ := e
    by_cases h : k' = k <;> simp [kput, kdel, h, ih]

@[simp] theorem kget_kdel_same (l : List (κ × α)) (k : κ) (x : α) : kget (kdel l k) k x = x := by
  induction l with
  | nil => rfl
  | cons e r ih =>
    obtain ⟨k', v'⟩ := e
    by_cases h : k' = k <;> simp [kdel, kget, h, ih]

@[simp] theorem kget_kputD_same [DecidableEq α] (l : List (κ × α)) (k : κ) (v x : α) : kget (kputD l k v x) k x = v := by
  unfold kputD
  split
  · next h => simp [h]
  · simp

end Keyed

section Indexed
variable {α : Type}

@[simp] theorem length_lmod (l : List α) (n : Nat) (f : α → α) : (lmod l n f).length = l.length := by
  induction l generalizing n with
  | nil => cases n <;> rfl
  | cons a r ih => cases n <;> simp [lmod, ih]

theorem getD_lmod (l : List α) (n m : Nat) (f : α → α) (x : α) :
    (lmod l n f).getD m x = if m = n ∧ n < l.length then f (l.getD m x) else l.getD m x := by
  induction l generalizing n m with
  | nil => cases n <;> simp [lmod]
  | cons a r ih =>
    cases n with
    | zero => cases m <;> simp [lmod]
    | succ n => cases m with
      | zero => simp [lmod]
      | succ m => simpa [lmod] using ih n m

theorem mem_lmod {l : List α} {n : Nat} {f : α → α} {x : α} (h : x ∈ lmod l n f) : x ∈ l ∨ ∃ y ∈ l, x = f y := by
  induction l generalizing n with
  | nil => cases n <;> simp [lmod] at h
  | cons a r ih =>
    cases n with
    | zero =>
      simp only [lmod, List.mem_cons] at h
      rcases h with h | h
      · exact .inr ⟨a, by simp, h⟩
      · exact .inl (by simp [h])
    | succ n =>
      simp only [lmod, List.mem_cons] at h
      rcases h with h | h
      · exact .inl (by simp [h])
      · rcases ih h with h | ⟨y, hy, e⟩
        · exact .inl (by simp [h])
        · exact .inr ⟨y, by simp [hy], e⟩

end Indexed

variable (d : Dev)

/-- Reading die `m` after die `n` was changed. -/
theorem dieOf_onDie (n m : Nat) (f : Die → Die) :
    dieOf (onDie d n f) m = if m = n ∧ n < d.dies.length then f (dieOf d m) else dieOf d m :=
  getD_lmod d.dies n m f {}

theorem dieOf_onDie_same {n : Nat} (f : Die → Die) (h : n < d.dies.length) : dieOf (onDie d n f) n = f (dieOf d n) := by
  simp [dieOf_onDie, h]

theorem dieOf_onDie_other {n m : Nat} (f : Die → Die) (h : m ≠ n) : dieOf (onDie d n f) m = dieOf d m := by
  simp [dieOf_onDie, h]

@[simp] theorem onDie_length (n : Nat) (f : Die → Die) : (onDie d n f).dies.length = d.dies.length :=
  length_lmod d.dies n f

@[simp] theorem portOf_onPort_same (p : Nat) (f : Port → Port) : portOf (onPort d p f) p = f (portOf d p) := by
  simp [portOf, onPort]

theorem portOf_onPort_other {p q : Nat} (f : Port → Port) (h : q ≠ p) : portOf (onPort d p f) q = portOf d q := by
  simp [portOf, onPort, kget_kput_other _ _ _ h]

@[simp] theorem laneOf_onLane_same (p : Nat) (f : Lane → Lane) : laneOf (onLane d p f) p = f (laneOf d p) := by
  simp [laneOf, onLane]

theorem laneOf_onLane_other {p q : Nat} (f : Lane → Lane) (h : q ≠ p) : laneOf (onLane d p f) q = laneOf d q := by
  simp [laneOf, onLane, kget_kput_other _ _ _ h]

@[simp] theorem voqOf_onVoq_same (q : VoqKey) (f : Voq → Voq) : voqOf (onVoq d q f) q = f (voqOf d q) := by
  simp [voqOf, onVoq]

theorem voqOf_onVoq_other {p q : VoqKey} (f : Voq → Voq) (h : q ≠ p) : voqOf (onVoq d p f) q = voqOf d q := by
  simp [voqOf, onVoq, kget_kput_other _ _ _ h]

/-- A fold of a function that keeps `g` keeps `g`. -/
theorem foldl_keeps {α β γ : Type} (g : β → γ) (f : β → α → β) (h : ∀ b a, g (f b a) = g b) (l : List α) (b : β) :
    g (l.foldl f b) = g b := by
  induction l generalizing b with
  | nil => rfl
  | cons a r ih => simp [ih, h]

@[simp] theorem onDies_length (l : List Nat) (f : Die → Die) : (onDies d l f).dies.length = d.dies.length :=
  foldl_keeps (fun d => d.dies.length) _ (fun d n => onDie_length d n f) l d

/-- Reading die `m` after each die of a list without repeats was changed. -/
theorem dieOf_onDies (l : List Nat) (hl : l.Nodup) (m : Nat) (f : Die → Die) :
    dieOf (onDies d l f) m = if m ∈ l ∧ m < d.dies.length then f (dieOf d m) else dieOf d m := by
  induction l generalizing d with
  | nil => simp [onDies]
  | cons n r ih =>
    have hn := List.nodup_cons.mp hl
    have e : onDies d (n :: r) f = onDies (onDie d n f) r f := rfl
    rw [e, ih _ hn.2, onDie_length, dieOf_onDie]
    by_cases h : m = n
    · subst h
      by_cases hm : m < d.dies.length <;> simp [hn.1, hm]
    · simp [h]

end Sys2Proof.Machine
end

