-- ==== Sys2Proof/Laws/Memory.lean ====
section
/-! SUPPORT. Host memory: every write keeps the canonical form, a byte reads back as written, and no other byte changes. -/

namespace Sys2Proof.Machine

/-- Every listed address is above `lo`. -/
theorem memory_wf_cons {a : Nat} {b : Byte} {m : List Host.Cell} :
    Memory.wf ((a, b) :: m) = true ↔ b ≠ 0 ∧ (∀ c ∈ m.head?, a < c.1) ∧ Memory.wf m = true := by
  cases m with
  | nil => simp [Memory.wf]
  | cons c r => obtain ⟨a', b'⟩ := c; simp [Memory.wf, and_assoc]

theorem memPut_head (m : List Host.Cell) (a : Nat) (b : Byte) (lo : Nat) (ha : lo < a) (h : ∀ c ∈ m.head?, lo < c.1)
    (hw : Memory.wf m = true) : ∀ c ∈ (memPut m a b).head?, lo < c.1 := by
  cases m with
  | nil =>
    intro c hc
    by_cases hb : b = 0#8
    · simp [memPut, hb] at hc
    · simp [memPut, hb] at hc; subst hc; exact ha
  | cons e r =>
    obtain ⟨a', b'⟩ := e
    have h' : lo < a' := h (a', b') (by simp)
    have hr := memory_wf_cons.mp hw
    intro c hc
    by_cases h1 : a < a'
    · by_cases hb : b = 0#8
      · simp [memPut, h1, hb] at hc; subst hc; exact h'
      · simp [memPut, h1, hb] at hc; subst hc; exact ha
    · by_cases h2 : a = a'
      · by_cases hb : b = 0#8
        · simp only [memPut, h2, Nat.lt_irrefl, if_false, if_true, hb] at hc
          exact Nat.lt_trans h' (hr.2.1 c hc)
        · simp [memPut, h2, hb] at hc; subst hc; exact h'
      · simp [memPut, h1, h2] at hc; subst hc; exact h'

/-- A write of a byte keeps the canonical form. -/
theorem memPut_wf (m : List Host.Cell) (a : Nat) (b : Byte) (h : Memory.wf m = true) :
    Memory.wf (memPut m a b) = true := by
  induction m with
  | nil => by_cases hb : b = 0#8 <;> simp [memPut, hb, Memory.wf]
  | cons e r ih =>
    obtain ⟨a', b'⟩ := e
    have hr := memory_wf_cons.mp h
    by_cases h1 : a < a'
    · by_cases hb : b = 0#8
      · simpa [memPut, h1, hb] using h
      · rw [memPut, if_pos h1, if_neg (show ¬b = 0 from hb)]
        exact memory_wf_cons.mpr ⟨hb, by simpa using h1, h⟩
    · by_cases h2 : a = a'
      · by_cases hb : b = 0#8
        · simpa [memPut, h2, hb] using hr.2.2
        · rw [memPut, if_neg h1, if_pos h2, if_neg (show ¬b = 0 from hb)]
          exact memory_wf_cons.mpr ⟨hb, h2 ▸ hr.2.1, hr.2.2⟩
      · simp only [memPut, h1, h2, if_false]
        exact memory_wf_cons.mpr ⟨hr.1, memPut_head r a b a' (by omega) hr.2.1 hr.2.2, ih hr.2.2⟩

theorem memWrite_wf (m : List Host.Cell) (a : Nat) (l : List Byte) (h : Memory.wf m = true) :
    Memory.wf (memWrite m a l) = true := by
  induction l generalizing m a with
  | nil => exact h
  | cons b r ih => exact ih _ _ (memPut_wf m _ b h)

theorem hostWrite_wf (d : Dev) (n : Nat) (fn : Fn) (a : Nat) (l : List Byte) (h : Memory.wf d.mem = true) :
    Memory.wf (hostWrite d n fn a l).mem = true := memWrite_wf d.mem a l h

theorem memGet_below {m : List Host.Cell} {a : Nat} (h : ∀ c ∈ m.head?, a < c.1) (hw : Memory.wf m = true) :
    memGet m a = 0 := by
  induction m with
  | nil => rfl
  | cons e r ih =>
    obtain ⟨a', b'⟩ := e
    have h' : a < a' := h (a', b') (by simp)
    have hr := memory_wf_cons.mp hw
    have hne : a ≠ a' := by omega
    simp only [memGet, hne, if_false]
    exact ih (fun c hc => Nat.lt_trans h' (hr.2.1 c hc)) hr.2.2

/-- A byte of a canonical memory read after a write. -/
theorem memGet_memPut (m : List Host.Cell) (a x : Nat) (b : Byte) (h : Memory.wf m = true) :
    memGet (memPut m a b) x = if x = a then b else memGet m x := by
  induction m with
  | nil => by_cases hb : b = 0#8 <;> by_cases hx : x = a <;> simp [memPut, memGet, hb, hx]
  | cons e r ih =>
    obtain ⟨a', b'⟩ := e
    have hr := memory_wf_cons.mp h
    by_cases h1 : a < a'
    · by_cases hb : b = 0#8
      · by_cases hx : x = a
        · subst hx
          rw [hb]
          simp only [memPut, h1, if_true]
          exact memGet_below (by simpa using h1) h
        · simp [memPut, h1, hb, hx]
      · simp [memPut, h1, hb, memGet]
    · by_cases h2 : a = a'
      · subst h2
        by_cases hb : b = 0#8
        · by_cases hx : x = a
          · subst hx
            simp only [memPut, Nat.lt_irrefl, if_false, if_true, hb]
            exact memGet_below hr.2.1 hr.2.2
          · simp [memPut, hb, memGet, hx]
        · by_cases hx : x = a <;> simp [memPut, hb, memGet, hx]
      · simp only [memPut, h1, h2, if_false, memGet, ih hr.2.2]
        by_cases hx : x = a'
        · simp [hx, Ne.symm h2]
        · simp [hx]

/-- A write leaves every byte alone whose address it does not name. -/
theorem memGet_memWrite_other (m : List Host.Cell) (a x : Nat) (l : List Byte) (hw : Memory.wf m = true)
    (h : ∀ i, i < l.length → x ≠ (a + i) % two64) : memGet (memWrite m a l) x = memGet m x := by
  induction l generalizing m a with
  | nil => rfl
  | cons b r ih =>
    have h0 : x ≠ a % two64 := by simpa using h 0 (by simp)
    show memGet (memWrite (memPut m (a % two64) b) (a + 1) r) x = _
    rw [ih _ _ (memPut_wf m _ b hw), memGet_memPut m _ _ _ hw, if_neg h0]
    intro i hi
    have := h (i + 1) (by simpa using hi)
    rwa [show a + (i + 1) = a + 1 + i by omega] at this

/-- Bytes read where they were written: at most 2^64 of them, so that none overwrites another. -/
theorem memGet_memWrite_same (m : List Host.Cell) (a i : Nat) (l : List Byte) (hw : Memory.wf m = true)
    (hl : l.length ≤ two64) (hi : i < l.length) : memGet (memWrite m a l) ((a + i) % two64) = l.getD i 0 := by
  induction l generalizing m a i with
  | nil => simp at hi
  | cons b r ih =>
    show memGet (memWrite (memPut m (a % two64) b) (a + 1) r) _ = _
    cases i with
    | zero =>
      rw [memGet_memWrite_other _ _ _ _ (memPut_wf m _ b hw), memGet_memPut m _ _ _ hw]
      · simp
      · intro j hj e
        simp only [List.length_cons] at hl
        unfold two64 at *
        omega
    | succ i =>
      have := ih (memPut m (a % two64) b) (a + 1) i (memPut_wf m _ b hw) (by simp at hl; omega) (by simpa using hi)
      rw [show a + (i + 1) = a + 1 + i by omega, this]
      simp

/-- A byte string written to host memory is read back. -/
theorem memRead_memWrite (m : List Host.Cell) (a : Nat) (l : List Byte) (hw : Memory.wf m = true)
    (hl : l.length ≤ two64) : memRead (memWrite m a l) a l.length = l := by
  apply List.ext_getElem
  · simp [memRead]
  · intro i h1 h2
    simp only [memRead, List.getElem_map, List.getElem_range]
    rw [memGet_memWrite_same m a i l hw hl h2]
    simp [h2]

end Sys2Proof.Machine
end

