-- ==== Sys2Proof/Laws/Quiet.lean ====
section
/-! SUPPORT. What reporting never touches. Completions, events, interrupts, the journal and counters change rings, host
memory, counters, vectors, outputs, waiting completions and the pairing record; `body` (Safety.lean) is a device without
these, and each operation that reports keeps it. -/

namespace Sys2Proof.Machine

theorem map_lmod {α β : Type} (g : α → β) (f : α → α) (f' : β → β) (h : ∀ a, g (f a) = f' (g a)) (l : List α) (n : Nat) :
    (lmod l n f).map g = lmod (l.map g) n f' := by
  induction l generalizing n with
  | nil => cases n <;> rfl
  | cons a r ih => cases n <;> simp [lmod, h, ih]

theorem lmod_id {α : Type} (l : List α) (n : Nat) : lmod l n (fun a => a) = l := by
  induction l generalizing n with
  | nil => cases n <;> rfl
  | cons a r ih => cases n <;> simp [lmod, ih]

/-- A change of a die that keeps its body keeps the device's. -/
theorem body_onDie (d : Dev) (n : Nat) (f : Die → Die) (h : ∀ x, (f x).body = x.body) : body (onDie d n f) = body d := by
  have : (lmod d.dies n f).map Die.body = d.dies.map Die.body := by
    rw [map_lmod Die.body f (fun a => a) h, lmod_id]
  simp only [body, onDie, this]

/-- Two devices of one body have dies of one body. -/
theorem body_dieOf {d e : Dev} (h : body d = body e) (n : Nat) : (dieOf d n).body = (dieOf e n).body := by
  have hd : d.dies.map Die.body = e.dies.map Die.body := congrArg Dev.dies h
  have hn := congrArg (fun l : List Die => l[n]?) hd
  simp only [List.getElem?_map] at hn
  simp only [dieOf, List.getD_eq_getElem?_getD]
  cases hx : d.dies[n]? <;> cases hy : e.dies[n]? <;> simp_all

@[simp] theorem body_hostWrite (d : Dev) (n : Nat) (fn : Fn) (a : Nat) (l : List Byte) : body (hostWrite d n fn a l) = body d := rfl
@[simp] theorem body_emit (d : Dev) (o : Out) : body (emit d o) = body d := rfl

@[simp] theorem body_bump (d : Dev) (n i k : Nat) : body (bump d n i k) = body d := body_onDie d n _ (by intro _; rfl)
@[simp] theorem body_bumpDie (d : Dev) (n i k : Nat) : body (bumpDie d n i k) = body d := body_bump d n _ k
@[simp] theorem body_bumpPort (d : Dev) (n i k : Nat) : body (bumpPort d n i k) = body d := body_bump d _ _ k

@[simp] theorem body_countDrop (d : Dev) (n : Nat) (p t : Option Nat) (c b : Nat) :
    body (countDrop d n p t c b) = body d := by
  unfold countDrop
  cases p <;> cases t <;> simp only [body_bump, body_bumpDie]
  all_goals split <;> simp

@[simp] theorem body_sendVec (d : Dev) (n : Nat) (fn : Fn) (v : Nat) : body (sendVec d n fn v) = body d := by
  unfold sendVec
  simp only
  split
  · exact body_onDie d n _ (by intro _; rfl)
  · exact (body_emit _ _).trans (body_onDie d n _ (by intro _; rfl))

@[simp] theorem body_pulseVec (d : Dev) (n : Nat) (fn : Fn) (v : Nat) : body (pulseVec d n fn v) = body d := by
  unfold pulseVec
  simp only
  split
  · exact (body_sendVec _ n fn v).trans (body_onDie d n _ (by intro _; rfl))
  · exact body_onDie d n _ (by intro _; rfl)

@[simp] theorem body_setCause (d : Dev) (n b : Nat) : body (setCause d n b) = body d := by
  unfold setCause
  simp only
  split
  · exact (body_pulseVec _ n _ _).trans (body_onDie d n _ (by intro _; rfl))
  · exact body_onDie d n _ (by intro _; rfl)

@[simp] theorem body_evtWrite (d : Dev) (h src code seq : Nat) (l : List Byte) :
    body (evtWrite d h src code seq l) = body d := by
  unfold evtWrite
  exact (body_setCause _ h intEvt).trans ((body_onDie _ h _ (by intro _; rfl)).trans (body_hostWrite d _ _ _ _))

@[simp] theorem body_tellLost (d : Dev) (h src : Nat) : body (tellLost d h src) = body d := by
  unfold tellLost nextSeq
  simp only
  split
  · rfl
  · exact (body_evtWrite _ h src _ _ _).trans ((body_onDie _ src _ (by intro _; rfl)).trans (body_onDie d src _ (by intro _; rfl)))

@[simp] theorem body_ringFreed (d : Dev) (h : Nat) : body (ringFreed d h) = body d :=
  foldl_keeps body _ (fun d src => body_tellLost d h src) _ d

@[simp] theorem body_raise (d : Dev) (src code : Nat) (l : List Byte) : body (raise d src code l) = body d := by
  unfold raise nextSeq
  simp only
  split
  · rfl
  · have e : body (onDie (tellLost d (dieOf d src).home src) src fun x => { x with seq := (x.seq + 1) % two32 })
        = body d := (body_onDie _ src _ (by intro _; rfl)).trans (body_tellLost d _ src)
    split
    · exact e
    · split
      · exact (body_evtWrite _ _ src code _ l).trans e
      · exact (body_bumpDie _ src _ 1).trans ((body_onDie _ src _ (by intro _; rfl)).trans e)

@[simp] theorem body_onRing (d : Dev) (n k : Nat) (f : Ring → Ring) : body (onRing d n k f) = body d :=
  body_onDie d n _ (by intro _; rfl)

@[simp] theorem body_fetchCmd (d : Dev) (c : Cmd) : body (fetchCmd d c) = body d :=
  (body_onDie _ _ _ (by intro _; rfl)).trans (body_onRing d _ _ _)

@[simp] theorem body_writeCpl (d : Dev) (p : Pend) : body (writeCpl d p) = body d := by
  unfold writeCpl
  simp only
  split
  · rfl
  · rw [body_setCause, body_onRing, body_hostWrite]
    split <;> simp

@[simp] theorem body_flushPends (d : Dev) : body (flushPends d) = body d := by
  unfold flushPends
  rw [foldl_keeps body _ body_writeCpl]
  rfl

@[simp] theorem body_releasePends (d : Dev) (f : Wait → Bool) (g : Pend → Pend) : body (releasePends d f g) = body d := by
  unfold releasePends
  rw [body_flushPends]
  rfl

@[simp] theorem body_leaseChange (b a : Dev) : body (leaseChange b a) = body a := by
  unfold leaseChange
  split
  · rfl
  · exact foldl_keeps body _ (fun d n => body_setCause d n _) _ a

@[simp] theorem body_markStale (d : Dev) (c : Nat) : body (markStale d c) = body d := by
  unfold markStale withLease raiseHaStale
  simp only [body_leaseChange, body_flushPends]
  split
  · rw [body_releasePends]; exact (body_raise _ 0 _ _)
  · exact (body_raise _ 0 _ _)

/- What leaves on the peer link changes that link's port. -/

@[simp] theorem offPeer_onPort (d : Dev) (f : Port → Port) : offPeer (onPort d 0x5C f) = offPeer d := by
  simp [offPeer, onPort]

theorem quiet_emit (d : Dev) (o : Out) : body (offPeer (emit d o)) = body (offPeer d) := rfl

theorem quiet_emitOn (d : Dev) (p : Nat) (o : Out) : body (offPeer (emitOn d p o)) = body (offPeer d) := rfl

theorem quiet_onPort (d : Dev) (f : Port → Port) : body (offPeer (onPort d 0x5C f)) = body (offPeer d) := by simp

theorem quiet_sendRole (d : Dev) : body (offPeer (sendRole d 0x5C)) = body (offPeer d) :=
  (quiet_emitOn _ _ _).trans (quiet_onPort d _)

theorem quiet_announceRole (d : Dev) : body (offPeer (announceRole d 0x5C)) = body (offPeer d) := by
  unfold announceRole
  split
  · exact (quiet_sendRole _).trans (quiet_onPort d _)
  · rfl

theorem quiet_sendWake (d : Dev) : body (offPeer (sendWake d 0x5C)) = body (offPeer d) :=
  (quiet_emit _ _).trans (quiet_onPort d _)

theorem quiet_sendRoles (d : Dev) : body (offPeer (sendRoles d 0x5C)) = body (offPeer d) :=
  (quiet_sendRole _).trans (quiet_onPort d _)

theorem quiet_leaveL1 (d : Dev) : body (offPeer (leaveL1 d 0x5C)) = body (offPeer d) := by
  unfold leaveL1
  simp only
  split
  · exact (quiet_announceRole _).trans ((quiet_sendWake _).trans (quiet_onPort d _))
  · split
    · exact (quiet_announceRole _).trans (quiet_onPort d _)
    · rfl

theorem quiet_exitL2 (d : Dev) : body (offPeer (exitL2 d 0x5C)) = body (offPeer d) := by
  unfold exitL2
  simp only
  split
  · exact (quiet_sendRoles _).trans ((quiet_sendWake _).trans (quiet_onPort d _))
  · rfl

theorem quiet_wakeTx (d : Dev) : body (offPeer (wakeTx d 0x5C)) = body (offPeer d) :=
  (quiet_exitL2 _).trans (quiet_leaveL1 d)

theorem quiet_putPeer (d : Dev) (tc : Nat) (l : List Byte) : body (offPeer (putPeer d tc l)) = body (offPeer d) :=
  (quiet_emitOn _ _ _).trans ((quiet_onPort _ _).trans (quiet_onPort d _))

theorem quiet_sevens (l : List (List Byte)) (d : Dev) :
    body (offPeer (l.foldl (fun d l => putPeer d 7 l) d)) = body (offPeer d) := by
  induction l generalizing d with
  | nil => rfl
  | cons a r ih => rw [List.foldl_cons, ih, quiet_putPeer]

theorem quiet_sixes (l : List (Nat × List Byte)) (d : Dev) :
    body (offPeer (l.foldl (fun d e => putPeer (noteSent d e.1) 6 e.2) d)) = body (offPeer d) := by
  induction l generalizing d with
  | nil => rfl
  | cons a r ih =>
    rw [List.foldl_cons, ih, quiet_putPeer]
    rfl

theorem quiet_ha (d : Dev) (h : Ha) : body (offPeer { d with ha := h }) = body (offPeer d) := rfl

theorem quiet_drainPeer (d : Dev) : body (offPeer (drainPeer d)) = body (offPeer d) := by
  have hw := quiet_wakeTx d
  unfold drainPeer
  generalize wakeTx d 0x5C = w at hw ⊢
  split
  · rfl
  · simp only
    split
    · exact hw
    · split
      · rw [quiet_sevens, quiet_ha, hw]
      · rw [quiet_sixes, quiet_ha, quiet_sevens, quiet_ha, hw]

theorem quiet_sendBulk (d : Dev) (l : List (Nat × List Byte)) : body (offPeer (sendBulk d l)) = body (offPeer d) := by
  unfold sendBulk
  split
  · exact quiet_drainPeer _
  · rfl

/-- Devices of one body are of one body without the peer link's port. -/
theorem quiet_of_body {d e : Dev} (h : body d = body e) : body (offPeer d) = body (offPeer e) := congrArg offPeer h

/-- Journaling changes the peer link's port and what reporting changes (R646, R649). -/
theorem quiet_journal (d : Dev) (b : JBody) : body (offPeer (journal d b)) = body (offPeer d) := by
  unfold journal
  split
  · rfl
  · split
    · exact quiet_of_body (body_markStale d 3)
    · exact (quiet_sendBulk _ _).trans (quiet_of_body (body_bumpDie _ 0 _ 1))

/-- A device that does not journal does nothing where it would. -/
theorem journal_idle {d : Dev} (h : journaling d = false) (b : JBody) : journal d b = d := by simp [journal, h]

@[simp] theorem body_complete (d : Dev) (c : Cmd) (op seq : Nat) (r : Reply) : body (complete d c op seq r) = body d := by
  unfold complete
  simp only
  split
  · simp
  · rfl

end Sys2Proof.Machine
end

