-- ==== Sys2Proof/Laws/Commands.lean ====
section
/-! SUPPORT. What the execution of a Rontis command comes to: once for a refused command, once for an accepted one. -/

namespace Sys2Proof.Machine

/-- A command of a ring that cannot start one changes nothing. -/
theorem runCmd_idle {sp : CmdSpec} {c : Cmd} {d : Dev} (h : canStart d c = false) : runCmd sp c d = d := by
  simp [runCmd, h]

/-- A refused command is fetched and completed and does nothing else. -/
theorem runCmd_refused {sp : CmdSpec} {c : Cmd} {d : Dev} {r : Reply} (h : canStart d c = true)
    (hr : refusal d c sp = some r) : runCmd sp c d = complete (fetchCmd d c) c sp.opcode 0 r := by
  simp [runCmd, h, hr]

/-- An accepted command is fetched, takes its place in the journal when it is of kind W, and is completed with its own
reply after its own effect. -/
theorem runCmd_accepted {sp : CmdSpec} {c : Cmd} {d : Dev} (h : canStart d c = true) (hr : refusal d c sp = none)
    (hm : sp.kind = .w → d.mirrorOk = true) : runCmd sp c d = commitCmd (fetchCmd d c) c sp := by
  unfold runCmd
  rw [h, hr]
  by_cases hk : sp.kind = .w
  · simp [hm hk]
  · simp [hk]

/-- The device at which an accepted command acts: fetched and journaled, which changes of the body at most the peer
link's port, and nothing where the device does not journal. -/
theorem commitCmd_acts (d : Dev) (c : Cmd) (sp : CmdSpec) :
    ∃ e seq, body (offPeer e) = body (offPeer d) ∧ (journaling d = false → body e = body d) ∧
      commitCmd d c sp = complete (sp.run e).1 c sp.opcode seq (sp.run e).2 := by
  unfold commitCmd
  refine ⟨_, _, ?_, ?_, rfl⟩
  · split
    · exact quiet_journal d _
    · rfl
  · intro h
    split
    · rw [journal_idle h]
    · rfl

/-- What an accepted command comes to. -/
theorem accepted_acts {sp : CmdSpec} {c : Cmd} {d : Dev} (h : canStart d c = true) (hr : refusal d c sp = none)
    (hm : sp.kind = .w → d.mirrorOk = true) :
    ∃ e seq, body (offPeer e) = body (offPeer d) ∧ (journaling d = false → body e = body d) ∧
      runCmd sp c d = complete (sp.run e).1 c sp.opcode seq (sp.run e).2 := by
  obtain ⟨e, seq, hb, hj, he⟩ := commitCmd_acts (fetchCmd d c) c sp
  exact ⟨e, seq, hb.trans (quiet_of_body (body_fetchCmd d c)), fun h => (hj h).trans (body_fetchCmd d c),
    (runCmd_accepted h hr hm).trans he⟩

/-- A command that is not of kind W acts on the device as fetched. -/
theorem accepted_reads {sp : CmdSpec} {c : Cmd} {d : Dev} (h : canStart d c = true) (hr : refusal d c sp = none)
    (hk : sp.kind ≠ .w) :
    runCmd sp c d = complete (sp.run (fetchCmd d c)).1 c sp.opcode 0 (sp.run (fetchCmd d c)).2 := by
  rw [runCmd_accepted h hr fun e => absurd e hk]
  unfold commitCmd
  simp [hk]

/-- A fetch changes of a die the rings and whose turn it is, alone. -/
theorem dieOf_fetchCmd (d : Dev) (c : Cmd) (n : Nat) :
    ∃ r t, dieOf (fetchCmd d c) n = { dieOf d n with rings := r, cmdTurn := t } := by
  unfold fetchCmd onRing
  rw [dieOf_onDie, dieOf_onDie]
  split <;> split <;> exact ⟨_, _, rfl⟩

/-- The dies that are not lost are those of the body. -/
theorem alive_body {d e : Dev} (h : body d = body e) (n : Nat) : alive d n = alive e n := by
  have hp : d.part = e.part := (congrArg Dev.part h :)
  have hl : (dieOf d n).lost = (dieOf e n).lost := (congrArg Die.lost (body_dieOf h n) :)
  simp [alive, hasDie, hp, hl]

theorem aliveDies_body {d e : Dev} (h : body d = body e) : aliveDies d = aliveDies e := by
  have hp : d.part = e.part := (congrArg Dev.part h :)
  unfold aliveDies
  rw [hp]
  congr 1
  funext n
  exact alive_body h n

theorem length_body {d e : Dev} (h : body d = body e) : d.dies.length = e.dies.length := by
  simpa [body] using congrArg (fun d : Dev => d.dies.length) h

theorem nodup_aliveDies (d : Dev) : (aliveDies d).Nodup := List.nodup_range.filter _

theorem nodup_bitList (k m : Nat) : (bitList k m).Nodup := List.nodup_range.filter _

end Sys2Proof.Machine
end

