-- ==== Sys2Proof/Laws/Slots.lean ====
section
/-! SUPPORT. What the shared operations on slots, sweeps, parity marks, owned chains and flits can do: one lemma each, to be
cited instead of unfolding them. -/

namespace Sys2Proof.Machine

/-- A unit that gets a slot is due. Either it has waited for its full bound, no unit of a lower number is forced, and it is counted
as forced; or the cap is not engaged, no unit is forced, and nothing of a higher priority waits (R491 to R493). -/
theorem takeSlot_cases {d e : Dev} {n p due bound : Nat} (h : takeSlot d n p due bound = some e) :
    expired d due 0 = true ∧
      ((expired d due bound = true ∧ forcedBelow d n p = false ∧ e = bumpDie d n cntForcedSlot 1) ∨
        (expired d due bound = false ∧ d.pkg.engaged = false ∧ forcedBelow d n 6 = false ∧ waitsBelow d n p = false ∧ e = d)) := by
  unfold takeSlot at h
  split at h
  · cases h
  · rename_i hdue
    refine ⟨by simpa using hdue, ?_⟩
    split at h
    · split at h
      · cases h
      · exact .inl ⟨‹_›, by simpa using ‹¬forcedBelow d n p = true›, (Option.some.inj h).symm⟩
    · split at h
      · cases h
      · rename_i hb hw
        simp only [Bool.or_eq_true, not_or, Bool.not_eq_true] at hw
        exact .inr ⟨by simpa using hb, hw.1.1, hw.1.2, hw.2, (Option.some.inj h).symm⟩

/-- The pass in which an index is visited has not visited it before, and the visit lies after its due time and before that of the
next pass (R264, R285). -/
theorem sweepAt_cases {w v : Sweep} {period count i now : Nat} (h : sweepAt w period count i now = some v) :
    (v = w ∨ v = rollSweep w period now) ∧ v.pos ≤ i ∧ sweepDue v count i ≤ now ∧ now < sweepDue v count i + v.period * sec := by
  unfold sweepAt at h
  simp only at h
  split at h
  · obtain rfl := Option.some.inj h
    simp_all
  · split at h
    · obtain rfl := Option.some.inj h
      simp_all
    · cases h

/-- An entry that has been written reads with good parity, and no other entry is touched (R281, R282). -/
@[simp] theorem parBad_parGood (x : Die) (t i u k : Nat) :
    parBad (parGood x t i) u k = (parBad x u k && (u, k) != (t, i)) := by
  rw [Bool.eq_iff_iff]
  simp only [parBad, parGood, List.contains_iff_mem, List.mem_filter, Bool.and_eq_true]

/-- The owner of a chain gets it returned (R351). -/
@[simp] theorem returnOwned_owner (d : Dev) (n : Nat) (o : Owner) (l : List Nat) :
    returnOwned d n o o l = returnCells n l d := by
  simp [returnOwned]

/-- A party that is not the owner is refused, and the chain stays HELD (R352). -/
theorem returnOwned_other (d : Dev) (n : Nat) (o p : Owner) (l : List Nat) (h : o ≠ p) (hl : l ≠ []) :
    returnOwned d n o p l = refuseReturn d n l := by
  simp [returnOwned, h, hl]

/-- No new flit carries more than 8 sectors (R390). -/
theorem newFlits_secs (t : Flit) (p : Piece) : ∀ g ∈ newFlits t p, flitSecs g ≤ 8 := by
  intro g hg
  simp only [newFlits, List.mem_map, List.mem_range] at hg
  obtain ⟨i, -, rfl⟩ := hg
  simp only [flitSecs, List.map_cons, List.map_nil, List.sum_cons, List.sum_nil]
  omega

theorem mem_lmod_at {α : Type} (l : List α) (n : Nat) (f : α → α) : ∀ a ∈ lmod l n f, a ∈ l ∨ ∃ b, l[n]? = some b ∧ a = f b := by
  induction l generalizing n with
  | nil => intro a h; cases n <;> cases h
  | cons b l ih =>
    intro a h
    cases n with
    | zero =>
      simp only [lmod, List.mem_cons] at h
      rcases h with rfl | h
      · exact .inr ⟨b, rfl, rfl⟩
      · exact .inl (List.mem_cons_of_mem _ h)
    | succ n =>
      simp only [lmod, List.mem_cons] at h
      rcases h with rfl | h
      · exact .inl (List.mem_cons_self ..)
      · rcases ih n a h with h | ⟨c, hc, rfl⟩
        · exact .inl (List.mem_cons_of_mem _ h)
        · exact .inr ⟨c, by simpa using hc, rfl⟩

/-- Packing keeps every flit within its 8 sectors (R390). -/
theorem putPart_secs (l : List Flit) (t : Flit) (p : Piece) (h : ∀ g ∈ l, flitSecs g ≤ 8) :
    ∀ g ∈ putPart l t p, flitSecs g ≤ 8 := by
  intro g hg
  unfold putPart at hg
  split at hg
  · rcases List.mem_append.mp hg with hg | hg
    · exact h g hg
    · exact newFlits_secs t p g hg
  · rename_i i _
    simp only at hg
    split at hg
    · rcases List.mem_append.mp hg with hg | hg
      · exact h g hg
      · exact newFlits_secs t p g hg
    · rcases List.mem_append.mp hg with hg | hg
      · rcases mem_lmod_at _ _ _ g hg with hg | ⟨b, hb, rfl⟩
        · exact h g hg
        · have hle := h b (List.mem_of_getElem? hb)
          have hd : l.getD i t = b := by simp [List.getD_eq_getElem?_getD, hb]
          simp only [hd, flitSecs, List.map_append, List.sum_append, List.map_cons, List.map_nil, List.sum_cons, List.sum_nil]
          simp only [flitSecs] at hle
          omega
      · exact newFlits_secs t _ g hg

end Sys2Proof.Machine
end

