-- ==== Sys2Proof/Machine/Wire.lean ====
section
/-! DEFINITION. The line coding of a Spindle lane (R95 to R102, R119 to R122, R125, R127): blocks and their bits, the
scrambler, rows, which command of the table a received block or row is, and codewords. A row of the table begins where
this coding ends; the lanes hold their scramblers and descramblers in State (log entry 54). -/

namespace Sys2Proof.Machine

/- Blocks (R95, R96, R101). -/

/-- A block: SH with sync header bit 0 lowest, and the payload with byte 0 lowest. -/
structure Block where
  sh : Nat
  payload : BitVec 64
  deriving DecidableEq, Repr

def dataBlock (w : BitVec 64) : Block := ⟨2, w⟩

/-- A control block: type code and bytes 1 to 7. -/
def controlBlock (type : Nat) (rest : BitVec 56) : Block := ⟨1, rest ++ BitVec.ofNat 8 type⟩

def idleBlock : Block := controlBlock 0x1E 0
def startBlock (header : BitVec 56) : Block := controlBlock 0x33 header
def stompBlock (reason : BitVec 8) : Block := controlBlock 0x4B (reason.setWidth 56)

/-- The type codes of T0 to T7. -/
def termTypes : List Nat := [0x55, 0x66, 0x78, 0x87, 0x99, 0xAA, 0xB4, 0xCC]

/-- A terminate block that holds the last `k` bytes of a frame. -/
def termBlock (l : List Byte) : Block := controlBlock (termTypes.getD l.length 0) (BitVec.ofNat 56 (ofLe l))

/-- An ordered set: code, content and the check of bytes 1 to 6 (R125). -/
def orderedBlock (code : Nat) (content : BitVec 40) : Block :=
  let l := leBytes 1 code ++ leBytes 5 content.toNat
  controlBlock 0x2D (BitVec.ofNat 56 (ofLe (l ++ leBytes 1 (crc8 l))))

/-- The blocks that carry the bytes of a frame after its START block (R101, R103): data blocks, and what is left in a
terminate block. -/
def bodyBlocks : Nat → List Byte → List Block
  | 0, l => [termBlock l]
  | n + 1, l =>
    if l.length < 8 then [termBlock l]
    else dataBlock (BitVec.ofNat 64 (ofLe (l.take 8))) :: bodyBlocks n (l.drop 8)

def frameBlocks (header : BitVec 56) (l : List Byte) : List Block := startBlock header :: bodyBlocks l.length l

/-- Payload bytes of a block, byte 0 first. -/
def Block.bytes (b : Block) : List Byte := leBytes 8 b.payload.toNat

/-- The command that a received block of a data row is (R96, R101, R102, R114 to R116); none for an ordered set, which
its row decides. -/
def blockCommand (port lane : Nat) (b : Block) : Option Instr :=
  let t := b.payload.toNat % 256
  let rest := (b.payload >>> 8).setWidth 56
  if b.sh = 2 then some (.rxDataBlock port b.payload)
  else if b.sh ≠ 1 then some (.rxBadBlock port lane true false)
  else if t = 0x1E then some (.rxIdleBlock port)
  else if t = 0x2D then none
  else if t = 0x33 then some (.rxStartBlock port rest)
  else if t = 0x4B then some (.rxStompBlock port (rest.setWidth 8))
  else match termTypes.findIdx? (· == t) with
    | some k => some (.rxTerminateBlock port k rest)
    | none => some (.rxBadBlock port lane false false)

/- Rows (R98, R99, R127, R128). -/

/-- Row and lane of block `k` of a port's stream (R98). -/
def rowLane (width k : Nat) : Nat × Nat := (k / width, k % width)

/-- An ordered set as received: its code, its content and whether its check is right. -/
def orderedSet (b : Block) : Nat × BitVec 40 × Bool :=
  (bitsOf b.payload.toNat 8 8, (b.payload >>> 16).setWidth 40,
    crc8 ((b.bytes.drop 1).take 6) == bitsOf b.payload.toNat 56 8)

/-- The content without the LANE field that ROLE has (R127, R136). -/
def laneless (code : Nat) (c : BitVec 40) : Nat := if code = 2 then c.toNat / 8 else c.toNat

/-- The codes that R125 assigns. -/
def assignedCode (c : Nat) : Bool := decide (1 ≤ c) && decide (c ≤ 4)

/-- The commands that an ordered-set row is; the blocks stand in lane-index order, `lanes` being the lanes that carry them
(R54). HELLOs and blocks with unassigned codes are judged block by block, the others as one row (R125, R127, R128). -/
def rowCommands (port : Nat) (lanes : List Nat) (row : List Block) : List Instr :=
  let sets := lanes.zip (row.map orderedSet)
  let hellos := sets.filter fun e => e.2.1 == 1
  let unknown := sets.filter fun e => !assignedCode e.2.1 && e.2.2.2
  let rest := sets.zipIdx.filter fun e => e.1.2.1 != 1 && (assignedCode e.1.2.1 || !e.1.2.2.2)
  hellos.map (fun e => .rxHello e.1 e.2.2.1 e.2.2.2) ++ unknown.map (fun _ => .rxOsUnknown port)
    ++ match rest with
      | [] => []
      | ((_, code, c, _), _) :: _ =>
        if rest.length == row.length && rest.all fun e => e.1.2.2.2 && e.1.2.1 == code
            && laneless code e.1.2.2.1 == laneless code c && (code != 2 || e.1.2.2.1.toNat % 8 == e.2) then
          [if code = 2 then .rxRole port c else if code = 3 then .rxPauseOs port c else .rxVeXoff port c]
        else [.rxOsBad port]

/-- The lanes of a port in the order of the LANE index that their HELLOs carry (R54). -/
def orderedLanes (d : Dev) (p : Nat) : List Nat := (List.range (portOf d p).conf.width).map (laneAt d p)

/-- The lane that carries the next block that a port sends, after `k` further blocks of its stream (R98, R105). -/
def txLane (d : Dev) (p k : Nat) : Nat := p + (txPlace (portOf d p) d.now + k) % max 1 (portOf d p).conf.width

/- The scrambler (R95, R97). -/

/-- A bit after scrambling or before descrambling, given the other and the last 58 scrambled bits. -/
def scramBit (s : BitVec 58) (d : Bool) : Bool := Bool.xor d (Bool.xor (s.getLsbD 38) (s.getLsbD 57))

/-- The register takes a scrambled bit. -/
def scramShift (s : BitVec 58) (b : Bool) : BitVec 58 := BitVec.ofNat 58 (s.toNat * 2 + b.toNat)

def scramble : BitVec 58 → List Bool → List Bool
  | _, [] => []
  | s, d :: l => let b := scramBit s d
    b :: scramble (scramShift s b) l

def descramble : BitVec 58 → List Bool → List Bool
  | _, [] => []
  | s, b :: l => scramBit s b :: descramble (scramShift s b) l

/-- The register after a run of scrambled bits. -/
def scramState : BitVec 58 → List Bool → BitVec 58 := List.foldl scramShift

def numBits (n v : Nat) : List Bool := (List.range n).map fun i => v.testBit i

def payloadBits (b : Block) : List Bool := numBits 64 b.payload.toNat

/-- Polarity inversion of a lane, below the line coding (R53): at NRZ rates every bit changes; at PAM4 rates every level
becomes its mirror image, which under the Gray coding of R121 changes the second bit of each pair. -/
def polarity (inv pam : Bool) (l : List Bool) : List Bool :=
  l.zipIdx.map fun e => Bool.xor e.1 (inv && (!pam || e.2 % 2 == 1))

/-- A lane at an NRZ rate sends a block: its bits in wire order, and the lane's scrambler after them (R53, R95, R97). -/
def laneSend (x : Lane) (b : Block) : List Bool × Lane :=
  let l := scramble x.txScr (payloadBits b)
  (polarity x.txInv false (numBits 2 b.sh ++ l), { x with txScr := scramState x.txScr l })

/-- A lane at an NRZ rate receives payload bits from the wire: what its descrambler gives, less the first 58 bits after it
started, which are discarded (R53, R97). -/
def laneReceive (x : Lane) (l : List Bool) : List Bool × Lane :=
  let l := polarity x.rxInv false l
  ((descramble x.rxScr l).drop (58 - x.rxScrN),
    { x with rxScr := scramState x.rxScr l, rxScrN := min 58 (x.rxScrN + l.length) })

/-- A lane's blocks in wire order: each sync header, then the scrambled payload (R95, R97). -/
def laneBits : BitVec 58 → List Block → List Bool
  | _, [] => []
  | s, b :: r => let l := scramble s (payloadBits b)
    numBits 2 b.sh ++ l ++ laneBits (scramState s l) r

/- Codewords (R119 to R121). -/

/-- Bits as a number, the first lowest. -/
def bitsNum : List Bool → Nat
  | [] => 0
  | b :: l => b.toNat + 2 * bitsNum l

/-- The symbols of a message: 10 bits each, the first bit lowest (R119). -/
def symbols : Nat → List Bool → List Nat
  | 0, _ => []
  | n + 1, l => bitsNum (l.take 10) :: symbols n (l.drop 10)

/-- Multiplication by α in GF(2^10) with x^10 + x^3 + 1 (R120). -/
def gfTimesAlpha (a : Nat) : Nat := if a ≥ 512 then (a * 2) ^^^ 0x409 else a * 2

def gfMulAux : Nat → Nat → Nat → Nat
  | 0, _, _ => 0
  | n + 1, a, b => (if b % 2 = 1 then a else 0) ^^^ gfMulAux n (gfTimesAlpha a) (b / 2)

def gfMul (a b : Nat) : Nat := gfMulAux 10 a b

def gfAlpha : Nat → Nat
  | 0 => 1
  | n + 1 => gfTimesAlpha (gfAlpha n)

/-- A polynomial, highest coefficient first, times (x − α^i). -/
def gfTimesRoot (l : List Nat) (i : Nat) : List Nat :=
  List.zipWith (· ^^^ ·) (l ++ [0]) (0 :: l.map fun c => gfMul c (gfAlpha i))

/-- g(x), highest coefficient first (R120). -/
def rsGenerator : List Nat := (List.range 16).foldl gfTimesRoot [1]

/-- The remainder takes the next message symbol. -/
def rsStep (p : List Nat) (m : Nat) : List Nat :=
  let f := m ^^^ p.headD 0
  List.zipWith (· ^^^ ·) (p.drop 1 ++ [0]) ((rsGenerator.drop 1).map fun c => gfMul f c)

/-- The 16 parity symbols p_15 to p_0 of a message (R120). -/
def rsParity (m : List Nat) : List Nat := m.foldl rsStep (List.replicate 16 0)

/-- A codeword in wire order: 528 message symbols and their parity, bit 0 of each symbol first (R119, R121). -/
def codeword (message : List Bool) : List Bool :=
  let m := symbols 528 message
  (m ++ rsParity m).flatMap (numBits 10)

/-- The codewords of all lanes of a port over the same 80 rows, which start together (R98, R119, R122): `stream` holds the
blocks of the rows in stream order, on lanes that stand as `lanes`. -/
def portCodewords (lanes : List Lane) (stream : List Block) : List (List Bool) :=
  lanes.zipIdx.map fun e => polarity e.1.txInv true
    (codeword (laneBits e.1.txScr ((stream.zipIdx.filter fun b => b.2 % lanes.length == e.2).map (·.1))))

/-- The PAM4 level of two consecutive wire bits (R121). -/
def pam4 (b0 b1 : Bool) : Nat := match b1, b0 with
  | false, false => 0
  | false, true => 1
  | true, true => 2
  | true, false => 3

/-- The PRBS31 of a lane in test mode as PAM4 symbols, for `n` of them, on a lane that is inverted or not (R53, R82,
R121). -/
def prbsSymbols (n : Nat) (s : BitVec 31) (inv : Bool) : List Nat :=
  let l := polarity inv true (prbsBits (2 * n) s)
  (List.range n).map fun i => pam4 (l.getD (2 * i) false) (l.getD (2 * i + 1) false)

end Sys2Proof.Machine
end

