-- ==== Sys2Proof/Laws/Wire.lean ====
section
/-! SUPPORT. The scrambler: a descrambler in the same state undoes it, and 58 received bits bring any descrambler into the
sender's state (R97). -/

namespace Sys2Proof.Machine

@[simp] theorem scramBit_scramBit (s : BitVec 58) (d : Bool) : scramBit s (scramBit s d) = d := by
  simp [scramBit]

theorem descramble_scramble (l : List Bool) (s : BitVec 58) : descramble s (scramble s l) = l := by
  induction l generalizing s with
  | nil => rfl
  | cons d l ih => simp [scramble, descramble, ih]

/-- Bits read as a number, the last one lowest, after the number `a`. -/
def shiftedIn (a : Nat) (l : List Bool) : Nat := l.foldl (fun a b => a * 2 + b.toNat) a

theorem shiftedIn_eq (l : List Bool) (a : Nat) : shiftedIn a l = a * 2 ^ l.length + shiftedIn 0 l := by
  induction l generalizing a with
  | nil => simp [shiftedIn]
  | cons b l ih =>
    have h1 := ih (a * 2 + b.toNat)
    have h2 := ih (0 * 2 + b.toNat)
    simp only [shiftedIn, List.foldl_cons, List.length_cons] at h1 h2 ⊢
    rw [h1, h2, Nat.pow_succ, Nat.zero_mul, Nat.zero_add, Nat.add_mul, Nat.mul_comm (2 ^ l.length) 2, ← Nat.mul_assoc,
      Nat.add_assoc]

theorem scramState_toNat (l : List Bool) (s : BitVec 58) :
    (scramState s l).toNat = shiftedIn s.toNat l % 2 ^ 58 := by
  induction l generalizing s with
  | nil => simp [scramState, shiftedIn, Nat.mod_eq_of_lt s.isLt]
  | cons b l ih =>
    have h := ih (scramShift s b)
    simp only [scramState, shiftedIn, List.foldl_cons] at h ⊢
    rw [h, show (scramShift s b).toNat = (s.toNat * 2 + b.toNat) % 2 ^ 58 by simp [scramShift]]
    have e1 := shiftedIn_eq l ((s.toNat * 2 + b.toNat) % 2 ^ 58)
    have e2 := shiftedIn_eq l (s.toNat * 2 + b.toNat)
    simp only [shiftedIn] at e1 e2
    rw [e1, e2, Nat.add_mod, Nat.mul_mod, Nat.mod_mod, ← Nat.mul_mod, ← Nat.add_mod]

theorem scramState_forgets (l : List Bool) (s t : BitVec 58) (h : 58 ≤ l.length) : scramState s l = scramState t l := by
  obtain ⟨k, hk⟩ := Nat.exists_eq_add_of_le h
  apply BitVec.eq_of_toNat_eq
  rw [scramState_toNat, scramState_toNat, shiftedIn_eq l s.toNat, shiftedIn_eq l t.toNat, hk, Nat.pow_add,
    Nat.mul_left_comm s.toNat, Nat.mul_left_comm t.toNat, Nat.mul_add_mod, Nat.mul_add_mod]

theorem descramble_synced (l r : List Bool) (s t : BitVec 58) (h : 58 ≤ l.length) :
    descramble (scramState t l) (scramble (scramState s l) r) = r := by
  rw [scramState_forgets l t s h, descramble_scramble]

end Sys2Proof.Machine
end

