-- ==== Sys2Proof/Machine/Package.lean ====
section
/-! DEFINITION. Data of the package that is exact: the rails with their currents (R696), the land grid and the
function of every land (R707 to R711, R729), and what the PCIe functions present (R576). Nothing of it is state; Tests compares it with the counts of R712. -/

namespace Sys2Proof.Machine

/-- The functions that the endpoint of a die presents (R576). -/
def pcieFunctions : List Fn := [.pf0, .pf1] ++ (List.range 64).map .vf

/-- Device ID of a function (R576). -/
def deviceId (p : Part) : Fn → Nat
  | .pf0 => partCode p
  | .pf1 => partCode p + 1
  | .vf _ => partCode p + 2

/-- Class code of every function: a network controller of another type (R576). -/
def classCode : Nat := 0x028000

/-- Size of BAR0 in bytes (R576). -/
def barSize : Fn → Nat
  | .pf0 => 65536
  | .pf1 => 16384
  | .vf _ => 4096

/-- The four low bits of BAR0 as configuration space reads them: a memory BAR, 64 bits wide, not prefetchable (R576). -/
def barType : Nat := 0b0100

/-- MSI-X vectors of a function (R576). -/
def msixVectors : Fn → Nat
  | .pf0 => 32
  | .pf1 => 16
  | .vf _ => 1

/-- VFs that the SR-IOV capability of PF1 offers (R576). -/
def totalVfs : Nat := 64

/-- The PCIe link that a function is on in split mode (R576). -/
def splitLink : Fn → Nat
  | .vf _ => 1
  | _ => 0

/-- The supply rails (R696). -/
inductive Rail where
  | core
  | srd
  | srdh
  | hbm
  | io
  | aon
  deriving DecidableEq, Repr

/-- Nominal voltage in mV and tolerance in percent (R696). -/
def railNominal : Rail → Nat × Nat
  | .core => (900, 3)
  | .srd => (900, 2)
  | .srdh => (1200, 2)
  | .hbm => (1200, 3)
  | .io => (1800, 5)
  | .aon => (900, 3)

/-- Greatest current of a die in tenths of an ampere; VDD_AON is drawn by d0 alone (R696). -/
def railCurrent : Rail → Nat
  | .core => 1650
  | .srd => 300
  | .srdh => 80
  | .hbm => 180
  | .io => 15
  | .aon => 5

/-- The greatest current of a part on a rail (R696). -/
def partCurrent (p : Part) (r : Rail) : Nat := if r = .aon then railCurrent r else dieCount p * railCurrent r

/-- The group of a rail in the order of power-up (R700). -/
def railGroup : Rail → Nat
  | .aon => 1
  | .io => 1
  | .core => 2
  | .srd => 2
  | .srdh => 3
  | .hbm => 3

/-- The five lands of a lane, in the order of their columns (R710). -/
inductive LaneLand where
  | txP
  | txN
  | vss
  | rxP
  | rxN
  deriving DecidableEq, Repr

/-- The lands of a die's control field (R711). -/
inductive PkgSignal where
  | perstN
  | pcieSplit
  | refclkPcieP
  | refclkPcieN
  | pwrOk
  | faultInN
  | alertN
  | queenIn
  | queenOut
  | refclkAon
  | ppsIn
  | ppsOut
  | tck
  | tms
  | tdi
  | tdo
  | trstN
  | spiSck
  | spiCsN
  | spiIo (n : Nat)
  | refclk156P
  | refclk156N
  deriving DecidableEq, Repr

/-- What a land is for (R709 to R711). -/
inductive Land where
  | vss
  | supply (r : Rail)
  | serial (lane : Nat) (l : LaneLand)
  | pcie (lane : Nat) (l : LaneLand)
  | signal (s : PkgSignal)
  | reserved
  deriving DecidableEq, Repr

def laneLand (k : Nat) : LaneLand := [LaneLand.txP, .txN, .vss, .rxP, .rxN].getD k .vss

/-- Control fields of every die (R711). -/
def controlAll (c r : Nat) : Option Land :=
  if r = 22 ∧ c ≤ 48 then some .reserved
  else match c, r with
    | 41, 21 => some (.signal .perstN)
    | 42, 21 => some (.signal .pcieSplit)
    | 42, 24 => some (.signal .refclkPcieP)
    | 43, 24 => some (.signal .refclkPcieN)
    | _, _ => none

/-- The package-level lands, in the control field of d0 (R711). -/
def controlD0 (c r : Nat) : Option Land :=
  if r = 24 ∧ 53 ≤ c then some (.supply .aon)
  else match r with
    | 21 => ([(49, PkgSignal.pwrOk), (51, .faultInN), (53, .alertN), (55, .queenIn), (57, .queenOut), (59, .refclkAon)].find?
        (·.1 == c)).map fun e => .signal e.2
    | 22 => ([(49, PkgSignal.ppsIn), (51, .ppsOut), (53, .tck), (55, .tms), (57, .tdi), (59, .tdo)].find?
        (·.1 == c)).map fun e => .signal e.2
    | 23 => ([(49, PkgSignal.trstN), (51, .spiSck), (53, .spiCsN), (55, .spiIo 0), (57, .spiIo 1), (59, .spiIo 2)].find?
        (·.1 == c)).map fun e => .signal e.2
    | 24 => ([(49, PkgSignal.spiIo 3), (51, .refclk156P), (52, .refclk156N)].find? (·.1 == c)).map fun e => .signal e.2
    | _ => none

/-- The function of the land at position (c, r) of the region of die `n`, with c from 1 to 60 and r from 1 to 32 (R709 to
R711). -/
def regionLand (n c r : Nat) : Land :=
  let even := fun x : Rail => if (c + r) % 2 = 0 then Land.supply x else .vss
  if r ≤ 16 then
    if c ≤ 50 then even .core
    else if c ≤ 58 then even .hbm
    else if c = 59 ∧ r ≤ 8 then .supply .io
    else .vss
  else if r ≤ 24 ∧ 41 ≤ c then
    if r ≤ 20 then even .srdh
    else ((controlAll c r).orElse fun _ => if n = 0 then controlD0 c r else none).getD .vss
  else if r ≤ 22 then even .srd
  else if r ≤ 24 then .pcie (8 * (r - 23) + (c - 1) / 5) (laneLand ((c - 1) % 5))
  else .serial (12 * (r - 25) + (c - 1) / 5) (laneLand ((c - 1) % 5))

/-- Columns and rows of the land grid (R729). -/
def landGrid : Part → Nat × Nat
  | .km8200 => (60, 64)
  | .km8400 => (120, 64)
  | .km8800 => (120, 128)

/-- The origin of a die's region (R708). -/
def regionOrigin (p : Part) (n : Nat) : Nat × Nat :=
  if p = .km8200 then (0, 32 * n) else (60 * (n % 2), 32 * (n / 2))

/-- The die and the function of land L-ccc-rrr of a part; none when the grid has no such position (R707, R708). -/
def landOf (p : Part) (col row : Nat) : Option (Nat × Land) :=
  let g := landGrid p
  if col = 0 ∨ row = 0 ∨ g.1 < col ∨ g.2 < row then none
  else
    let n := if p = .km8200 then (row - 1) / 32 else (col - 1) / 60 + 2 * ((row - 1) / 32)
    some (n, regionLand n ((col - 1) % 60 + 1) ((row - 1) % 32 + 1))

/-- The functions of all lands of a die's region. -/
def regionLands (n : Nat) : List Land :=
  (List.range 32).flatMap fun r => (List.range 60).map fun c => regionLand n (c + 1) (r + 1)

end Sys2Proof.Machine
end

