-- ==== Sys2Proof/WellFormed.lean ====
section
/-! DEFINITION. Well-formed commands: every operand lies in the range that the spec gives the thing it names. The
machine runs ill-formed ones too, without effect where they name nothing; statements assume well-formedness only where
they need it. -/

namespace Sys2Proof

/-- A number below a bound. -/
def okSmall (n x : Nat) : Bool := decide (x < n)

/-- A die number (R6). -/
def okDie (n : Nat) : Bool := okSmall 8 n

/-- A global port or lane ID: the die in [9:7], the local number 0 to 95 in [6:0] (R6). -/
def okPort (p : Nat) : Bool := okSmall 1024 p && decide (p % 128 < 96)

/-- A function: VFs are 0 to 63 (R576). -/
def okFn : Fn → Bool
  | .pf0 => true
  | .pf1 => true
  | .vf n => okSmall 64 n

/-- A punt ring, 0 to 15, or the tap ring of a VF (R592). -/
def okPRing : PRing → Bool
  | .punt r => okSmall 16 r
  | .tap v => okSmall 64 v

/-- A VOQ: its target is a port, or a die for a multicast VOQ (R378). -/
def okVoq (q : VoqKey) : Bool :=
  okDie q.die && okSmall 8 q.tc && (if q.mc then okDie q.target else okPort q.target)

/-- What a credit is granted for: a port, or the replication engine of die `n` as 1,024 + n (R385). -/
def okGrant (p : Nat) : Bool := okPort p || (okSmall 1032 p && decide (1024 ≤ p))

/-- A command entry stands in one of 8 rings of a die (R535). -/
def okCmd (c : Cmd) : Bool := okDie c.die && okSmall 8 c.ring

/-- Dies and indices of a journal entry or record (R157, R646). -/
def okBody : JBody → Bool
  | .command op _ _ => okSmall 65536 op
  | .cancel s => okSmall 18446744073709551616 s
  | .learn n _ _ tenant index _ moves victim => okDie n && okSmall 1024 tenant && okSmall 262144 index
      && (moves.all fun m => okSmall 262144 m.1 && okSmall 262144 m.2) && victim.all (okSmall 262144)
  | .macRemove n index => okDie n && okSmall 262144 index
  | .actionRun id => okSmall 4294967296 id
  | .dieLost n => okDie n
  | .lease e _ => okSmall 65536 e
  | .action id k t op _ _ => okSmall 4294967296 id && okSmall 16 k && okSmall 18446744073709551616 t && okSmall 65536 op

def okBodies (l : List JBody) : Bool := l.all okBody

/-- Table entries that read with bad parity: table 0 to 4 of R281, and index. -/
def okBad (l : List (Nat × Nat)) : Bool := l.all fun e => okSmall 5 e.1

/-- A timestamp ID of 16 bits (R508). -/
def okTsId (t : Option Nat) : Bool := t.all (okSmall 65536)

/-- A counter index (R317). -/
def okCntErr (e : Option CntErr) : Bool := e.all fun e => okSmall 1048576 e.index

def okVe (v : Option Nat) : Bool := v.all (okSmall 4096)

def okDies (l : List Nat) : Bool := l.all okDie

/-- The command is well-formed. -/
def Instr.wf : Instr → Bool
  | .sysNop c => okCmd c
  | .sysInfo c => okCmd c
  | .sysEventMask c => okCmd c
  | .sysDieStatus c => okCmd c
  | .unknownCommand _ c => okCmd c
  | .portConfig c => okCmd c
  | .portStatus c => okCmd c
  | .portRetrain c => okCmd c
  | .portTest c => okCmd c
  | .portEyeScan c _ _ => okCmd c
  | .portRelease c => okCmd c
  | .tenVeSet c => okCmd c
  | .tenVeGet c => okCmd c
  | .tenSet c => okCmd c
  | .tenGet c => okCmd c
  | .tenStatus c => okCmd c
  | .tblMacAdd c => okCmd c
  | .tblMacDel c => okCmd c
  | .tblMacFlush c => okCmd c
  | .tblMacGet c => okCmd c
  | .tblMacConfig c => okCmd c
  | .tblBdSet c => okCmd c
  | .tblRouteSet c => okCmd c
  | .tblRouteGet c => okCmd c
  | .tblErrModeSet c => okCmd c
  | .tblStatus c => okCmd c
  | .tblMcgSet c _ => okCmd c
  | .tblMcgGet c => okCmd c
  | .clsRuleSet c _ => okCmd c
  | .clsRuleGet c => okCmd c
  | .clsPortSet c => okCmd c
  | .clsParserSet c => okCmd c
  | .clsUdfSet c => okCmd c
  | .clsPuntRingSet c => okCmd c
  | .polSet c => okCmd c
  | .polGet c => okCmd c
  | .mirSet c => okCmd c
  | .mirTapSet c => okCmd c
  | .cntRead c err => okCmd c && okCntErr err
  | .cntClear c => okCmd c
  | .cntSnapSet c => okCmd c
  | .qosBufSet c => okCmd c
  | .qosBufProfileSet c => okCmd c
  | .qosVoqBind c => okCmd c
  | .qosTenBufSet c => okCmd c
  | .qosBufStatus c => okCmd c
  | .qosVoqStatus c => okCmd c
  | .qosPathSet c _ => okCmd c
  | .qosPathGet c => okCmd c
  | .qosCtSet c => okCmd c
  | .qosFabricStatus c => okCmd c
  | .qosWredSet c => okCmd c
  | .qosWredBind c => okCmd c
  | .qosFcSet c => okCmd c
  | .qosFcStatus c => okCmd c
  | .qosMcSet c => okCmd c
  | .qosSchedPortSet c => okCmd c
  | .qosSchedGroupSet c => okCmd c
  | .qosSchedMapSet c => okCmd c
  | .pwrCapSet c => okCmd c
  | .pwrPolicySet c => okCmd c
  | .pwrStatus c => okCmd c
  | .pwrAcctGet c => okCmd c
  | .pwrModelGet c => okCmd c
  | .timeGet c => okCmd c
  | .timeAdj c => okCmd c
  | .timePortSet c => okCmd c
  | .timePpsSet c => okCmd c
  | .timePpsGet c => okCmd c
  | .timeTxtsRead c => okCmd c
  | .schedAdd c _ _ => okCmd c
  | .schedDel c => okCmd c
  | .schedGet c => okCmd c
  | .haConfig c => okCmd c
  | .haStatus c => okCmd c
  | .haHandover c => okCmd c
  | .haResync c => okCmd c
  | .memScrubSet c => okCmd c
  | .memLogRead c => okCmd c
  | .memRetire c => okCmd c
  | .memStatus c => okCmd c
  | .memChannelRestart c => okCmd c
  | .secAttest c => okCmd c
  | .secFwWrite c _ write => okCmd c && okDies write.failedDies
  | .secCfgWrite c _ _ => okCmd c
  | .secFlashStatus c => okCmd c
  | .secFuseRead c => okCmd c
  | .secFuseProgram c _ => okCmd c
  | .cmdDbWrite die ring _ => okDie die && okSmall 8 ring
  | .cplDbWrite die ring _ => okDie die && okSmall 8 ring
  | .evtDbWrite die _ => okDie die
  | .mbCtrlRestart die _ => okDie die
  | .indDataWrite die _ => okDie die
  | .indDataRead die => okDie die
  | .ringEnable die => okDie die
  | .ringDisable die => okDie die
  | .evtRingEnable die => okDie die
  | .evtRingDisable die => okDie die
  | .indirectWriteEffect die => okDie die
  | .registerWrite die fn _ _ _ => okDie die && okFn fn
  | .lockWrite die _ => okDie die
  | .guardAWrite _ => true
  | .powerCapOverride _ => true
  | .diePark _ => true
  | .dieUnpark _ => true
  | .leaseForceActive _ => true
  | .leaseForceStandby _ => true
  | .fuseProgEnable _ => true
  | .guardedDirectWrite _ _ => true
  | .guardWindowExpiry => true
  | .fuseProgEnTimeout => true
  | .poolTailWrite die ring pool _ => okDie die && okPRing ring && okSmall 3 pool
  | .cplConsWrite die ring _ => okDie die && okPRing ring
  | .msixVectorUnmask die fn vec => okDie die && okFn fn && okSmall 32 vec
  | .msixCoalesceTimeout die fn vec => okDie die && okFn fn && okSmall 32 vec
  | .pf0Flr die => okDie die
  | .pf1VfFlr die fn => okDie die && okFn fn
  | .pwrOkRise failedDies _ => okDies failedDies
  | .pwrOkFall => true
  | .railUndervoltage => true
  | .refclkLoss => true
  | .pcieRefclkLoss die => okDie die
  | .perstNAssert die => okDie die
  | .perstNRelease die _ => okDie die
  | .dieReady die => okDie die
  | .faultInAssert => true
  | .thermalStopExit => true
  | .queenInEdge => true
  | .ppsInEdge _ _ => true
  | .ppsOutRise => true
  | .ppsOutFall => true
  | .debugMailboxAccess => true
  | .signalDetectChange lane _ => okPort lane
  | .signalDetectValid lane => okPort lane
  | .helloTxDue port => okPort port
  | .seekLockRestart lane => okPort lane
  | .rxHello lane _ _ => okPort lane
  | .pllLock port => okPort port
  | .laneLock port _ => okPort port
  | .coefRequestApplied lane _ => okPort lane
  | .eqTrainingDone port => okPort port
  | .qualificationWindowEnd port => okPort port
  | .phaseBudgetExpiry port failLane => okPort port && okPort failLane
  | .attemptLimitExpiry port failLane => okPort port && okPort failLane
  | .helloSilenceExpiry lane => okPort lane
  | .restartWaitExpiry port => okPort port
  | .rxCodeword lane _ => okPort lane
  | .rxIdleBlock port => okPort port
  | .rxStartBlock port _ => okPort port
  | .rxDataBlock port _ => okPort port
  | .rxTerminateBlock port k _ => okPort port && okSmall 8 k
  | .rxStompBlock port _ => okPort port
  | .rxBadBlock port lane _ _ => okPort port && okPort lane
  | .quarantineHoldoffEnd port => okPort port
  | .smokerHistoryReset port => okPort port
  | .rxRole port _ => okPort port
  | .rxPauseOs port _ => okPort port
  | .rxVeXoff port _ => okPort port
  | .rxOsUnknown port => okPort port
  | .rxOsBad port => okPort port
  | .roleKeepaliveDue port => okPort port
  | .roleRepeatDue port => okPort port
  | .l1IdleEntry port => okPort port
  | .l2DelayExpiry port => okPort port
  | .l2AnswerTimeout port => okPort port
  | .l2ExitCheckEnd port _ => okPort port
  | .l2ExitLimit port => okPort port
  | .ethAnExchange port partner => okPort port && partner.all (okSmall 256)
  | .anFailRepeat port => okPort port
  | .ethLinkStatusChange port _ => okPort port
  | .ethRxFrame port _ _ => okPort port
  | .ethRxMacControl port _ => okPort port
  | .headerPipelineTurn die turn => okDie die && okSmall 4 turn.slice && okBad turn.bad
  | .lpmRecirculation die turn => okDie die && okSmall 4 turn.slice && okBad turn.bad
  | .learnEvent die => okDie die
  | .learnEventTimeout die => okDie die
  | .agingVisit die index => okDie die && okSmall 262144 index
  | .tableParityRepair die table _ => okDie die && okSmall 5 table
  | .shadowCompareBlock die table _ _ _ => okDie die && okSmall 5 table
  | .puntDelivery die _ => okDie die
  | .keeperForward die => okDie die
  | .tapDelivery die _ => okDie die
  | .allocatorClock die _ => okDie die
  | .combAudit die => okDie die
  | .pageWriteStart die => okDie die
  | .pageWriteDone die => okDie die
  | .readbackStart die => okDie die
  | .readbackDone die _ _ => okDie die
  | .creditGrant port => okGrant port
  | .voqIdleReturn q => okVoq q
  | .voqSend q _ => okVoq q
  | .flitRx die channel _ _ => okDie die && okSmall 7 channel
  | .bridgeRetrainDone die channel => okDie die && okSmall 7 channel
  | .bridgeChannelFail die channel => okDie die && okSmall 7 channel
  | .relayFlitSend die channel => okDie die && okSmall 7 channel
  | .pathDrainComplete src dst => okDie src && okDie dst
  | .heartbeatSilence die => okDie die
  | .heartbeatLossStop die => okDie die
  | .schedulerSelect port => okPort port
  | .frameTxEnd port => okPort port
  | .energyHoldCheck port => okPort port
  | .mcCopyJudge die => okDie die
  | .mcResidueTick die => okDie die
  | .wredAvgUpdate die => okDie die
  | .pauseRefreshDue port => okPort port
  | .veXoffRefreshDue port ve => okPort port && okSmall 4096 ve
  | .pauseHoldExpiry port tc => okPort port && okSmall 8 tc
  | .veXoffHoldExpiry port ve => okPort port && okSmall 4096 ve
  | .pauseWatchdogExpiry port tc ve => okPort port && okSmall 8 tc && okVe ve
  | .pauseIgnorePeriodEnd port tc ve => okPort port && okSmall 8 tc && okVe ve
  | .energyWindowBoundary _ _ => true
  | .powerSensorSample die _ _ => okDie die
  | .forecastUpdate => true
  | .sliceRetentionEntry die slice => okDie die && okSmall 4 slice
  | .sliceOffEntry die slice => okDie die && okSmall 4 slice
  | .bankCloseStart die => okDie die
  | .bankOff die => okDie die
  | .bankWake die => okDie die
  | .schedActionRun => true
  | .boundaryClockMessage domain _ send =>
    okSmall 16 domain && okPort send.port && decide (send.message.length ≤ 9724) && okTsId send.tsReq
  | .snapshotDue die => okDie die
  | .veSpoofEventDue port => okPort port
  | .overQuotaEventDue die tenant => okDie die && okSmall 1024 tenant
  | .keeperTrap die cause => okDie die && okSmall 5 cause
  | .firmwareWatchdogExpiry die => okDie die
  | .keeperRestartDone r => okDie r.die && decide (r.word < 65536)
  | .mirrorRebuildDone => true
  | .foragerLine die memory errs _ => errs.all (fun e => decide (e.1 < 8)) && okDie die && okSmall 6 memory
  | .freeListRebuild die => okDie die
  | .creditRecount port => okPort port
  | .dmaReadError die channel cause => okDie die && okSmall 4 channel && okSmall 3 cause
  | .leaseRenewalDue => true
  | .announceDue => true
  | .peerRxRenew _ => true
  | .peerRxAnswer _ => true
  | .peerRxAnnounce _ => true
  | .peerRxReceipt _ => true
  | .peerRxJournal _ bodies => okBodies bodies
  | .peerRxSnapshot _ read => okBodies read.bodies
  | .answerMiss => true
  | .leaseExpiryFence => true
  | .leaseTakeover => true
  | .formationTakeover => true
  | .soloResumption => true
  | .journalLagStale => true
  | .resyncAutoStart => true
  | .resyncComplete => true
  | .handoverFence => true
  | .failbackHoldDown => true
  | .queenOutFall => true
  | .receiptDue => true
  | .bridgeChannelLockLoss die channel => okDie die && okSmall 7 channel
  | .guardBFailedWrite _ => true
  | .prbsCheckerLock lane _ => okPort lane
  | .faultInDeassert => true
  | .queenInFall => true
  | .ppsInFall => true

end Sys2Proof
end

