-- ==== Sys2Proof/Tests/Slice0.lean ====
section
/-! SUPPORT. Tests: an ill-formed command for each check of WellFormed, the spec's own worked examples, and for each
statement states and operands that meet its hypotheses, each clause at a value of its own. -/

namespace Sys2Proof.Tests

open Sys2Proof Sys2Proof.Machine Sys2Proof.Claims

/-- A parameter area from its fields, each a byte offset and a value. -/
def par (l : List (Nat × Nat)) : BitVec 384 := BitVec.ofNat 384 (l.foldl (fun a e => a + e.2 * 2 ^ (8 * e.1)) 0)

/-- A command in ring 0 of d0. -/
def cmd (l : List (Nat × Nat)) : Cmd :=
  { die := 0, ring := 0, tag := 7, flags := 0, rsv := 0, result := 0x1000, params := par l }

/-- A ring with one command to fetch. -/
def ring1 : Ring := { enable := true, prod := 1, cplBase := 0x2000 }

/-- One minute of time units. -/
def minute : Nat := 60000000 * 12500

/-- A die in service, whose forager has a line to visit in a microsecond. -/
def die1 : Die :=
  { keeper := .running
    perst := false
    pcieUp := true
    ready := true
    rings := ring1 :: List.replicate 7 {}
    evt := { enable := true, base := 0x10000 }
    slices := List.replicate 4 { pow := .on }
    chans := List.replicate 7 { st := .up }
    walkAt := List.replicate 6 (minute + us) }

/-- A KM-8800 in service, one minute after its grain counters started. -/
def dev1 : Dev :=
  { now := minute
    grain0 := some 0
    run := .running
    pwrOk := true
    readyOnce := true
    pkg := { window := 60000 }
    dies := List.replicate 8 die1 }

def st (d : Dev) : State := { dev := d }

/-- A command with the parameters `l` can start on the device `d`, and no cause of R553 refuses it. -/
abbrev takes (d : Dev) (l : List (Nat × Nat)) (sp : Dev → BitVec 384 → CmdSpec) : Bool :=
  Accepted (st d) (cmd l) (sp d (cmd l).params)

/-- `dev1` with die `n` changed. -/
def withDie (n : Nat) (f : Die → Die) : Dev := onDie dev1 n f

/- SYS_ commands (SystemCommandsComplete). -/

theorem witness_sys : Accepted (st dev1) (cmd []) specSysNop = true ∧ Accepted (st dev1) (cmd []) specSysInfo = true ∧
    takes dev1 [(0, 0xFF), (1, 7), (2, 7), (4, 0x0101)] specSysEventMask = true ∧
    takes dev1 [(0, 7)] specSysDieStatus = true ∧
    canStart dev1 (cmd []) = true ∧ accepted dev1 0 0xFFFF = false := by decide

/- A device in use: tenant 1 with VE 5 on Spindle link 0 and VE 6 on Ethernet port 8, bridge domain 10, group 20. -/

def ve5 : VeEntry := { valid := true, tenant := 1, port := 0, bd := 10, vrf := 3, learn := true, acct := 9, cellCap := noLimit }
def ve6 : VeEntry := { valid := true, tenant := 1, port := 8, bd := 10, vrf := 3, acct := 9, cellCap := noLimit }

def tab1 : Tables :=
  { ves := [(5, ve5), (6, ve6)]
    tenants := [(1, { valid := true, comb := noLimit, store := noLimit, mac := noLimit, puntRate := 1000, puntBurst := 10,
                      mirRate := 1000, energy := noLimit })]
    bds := [(10, { floodEn := true, group := 20 })]
    groups := [(20, { valid := true, members := [(6, 0)] })]
    routes := [(⟨3, 4, 8, 0x0A000000⟩, { ve := 6, mac := 0x020000000006 })] }

def link0 : Port :=
  { conf := { mode := 1, width := 1, rate := 4 }, run := { mode := 1, width := 1, rate := 4 }, link := .up, rate := 4, power := .l0, roleSeen := true }
def eth8 : Port :=
  { conf := { mode := 2, width := 1, rate := 2 }, run := { mode := 2, width := 1, rate := 2 }, link := .up, rate := 2, power := .l0 }

def devT : Dev := { dev1 with
  master := tab1
  dies := List.replicate 8 { die1 with tab := tab1 }
  ports := [(0, link0), (8, eth8), (16, { link0 with link := .quarantine, quarUntil := 2 * minute })]
  lanes := [(0, { sd := true, sdRaw := true, blockLock := true, cwLock := true })] }

theorem witness_tenants :
    takes devT [(0, 5), (2, 1), (6, 10), (15, 1), (20, 196608)] specTenVeSet = true ∧
    takes devT [(0, 4095)] specTenVeSet = true ∧ takes devT [(0, 5), (2, 7)] specTenVeGet = true ∧
    takes devT [(0, 1), (2, 1), (4, 196608), (8, noLimit), (12, 262144), (16, 10000000), (20, 1), (24, 1600000)] specTenSet = true ∧
    takes devT [(0, 1023)] (fun _ => specTenGet) = true ∧ takes devT [(0, 1), (2, 7)] specTenStatus = true := by decide

theorem witness_over_quota :
    let d := onDie devT 7 fun x => { x with overQ := [(1, { wait := true, last := some (minute - 10 * ms) })] }
    alive d 7 = true ∧ (kget (dieOf d 7).overQ 1 {}).wait = true ∧
      mayRaise d (kget (dieOf d 7).overQ 1 {}).last (10 * ms) = true := by decide

/-- A parameter field that holds a MAC, first byte on the wire highest. -/
def macAt (off m : Nat) : List (Nat × Nat) := (List.range 6).map fun k => (off + k, m / 256 ^ (5 - k) % 256)

theorem witness_table_writes :
    takes devT ((0, 10) :: macAt 2 0x020000000001 ++ [(10, 4095)]) specTblMacAdd = true ∧
    takes devT ((0, 10) :: macAt 2 0x030000000001 ++ [(8, 1), (10, 65535)]) specTblMacAdd = true ∧
    takes devT ((0, 10) :: macAt 2 0x020000000001 ++ [(8, 1)]) specTblMacDel = true ∧
    takes devT ((0, 10) :: macAt 2 0x020000000001 ++ [(9, 0x80)]) specTblMacDel = true ∧
    takes devT [(0, 0xFF), (1, 7), (2, 16383), (4, 4095), (6, 1023)] specTblMacFlush = true ∧
    takes devT [(0, 0x81), (1, 1), (2, 3600)] specTblMacConfig = true ∧
    (let d := { devT with now := minute - 1 }
     takes d [(0, 0x81), (1, 1), (2, 1)] specTblMacConfig = true ∧
       d.now < (dieOf d 7).ageSweep.at' + (dieOf d 7).ageSweep.period * sec) ∧
    takes devT [(0, 16383), (2, 3), (4, 65535)] specTblBdSet = true ∧
    takes devT [(0, 7), (1, 2), (2, 1), (4, 3600), (8, 0x1000)] specTblErrModeSet = true ∧ 7 < devT.dies.length := by decide

theorem witness_route_writes :
    takes devT [(0, 3), (2, 4), (3, 32), (4, 3), (6, 4095), (16, 0x0100000A)] specTblRouteSet = true ∧
    takes devT [(0, 3), (2, 6), (3, 128), (6, 4095)] specTblRouteSet = true := by decide +kernel

theorem witness_table_reads :
    takes devT ((0, 16383) :: macAt 2 0x020000000001 ++ [(8, 7)]) specTblMacGet = true ∧
    takes devT [(0, 3), (2, 4), (3, 8), (16, 0x0A)] (fun _ => specTblRouteGet) = true ∧
    takes devT [(0, 7)] specTblStatus = true := by decide

theorem witness_ports :
    takes devT [(0, 4), (2, 1), (3, 4), (4, 4), (6, 15), (7, 15)] specPortConfig = true ∧
    takes devT [(0, 8), (2, 2), (3, 1), (4, 2), (5, 3)] specPortConfig = true ∧
    takes devT [(0, 16), (2, 1), (3, 1), (4, 4)] specPortConfig = true ∧
    (portOf devT 4).link ≠ .quarantine ∧ (portOf devT 16).link = .quarantine ∧ portsRun devT 0 = true ∧
    takes devT [(0, 0), (2, 0), (3, 1)] specPortConfig = true ∧ takes devT [(0, 1023 - 32)] specPortStatus = true ∧
    takes devT [(0, 0)] specPortRetrain = true ∧ takes devT [(0, 8)] specPortRetrain = true ∧
    takes devT [(0, 16)] specPortRetrain = true ∧ takes devT [(0, 0), (2, 1), (3, 4)] specPortTest = true ∧
    takes devT [(0, 8), (2, 2)] specPortTest = true ∧
    takes (onPort devT 8 fun q => { q with link := .test }) [(0, 8)] specPortTest = true ∧
    takes devT [(0, 0), (2, 2), (3, 0x1F), (4, 0xC1), (5, 32)] (fun d p => specPortEyeScan d p true 9 true) = true ∧
    takes devT [(0, 16)] specPortRelease = true ∧ isPort devT 16 = true := by decide

/-- The record of a rule that matches every frame and drops it. -/
def rule0 : List Byte := padTo 128 []

theorem witness_classifier :
    takes devT [(0, 0xFF), (1, 15), (2, 16383), (4, 1), (8, 64)] (fun d p => specClsRuleSet d p rule0) = true ∧
    takes devT [(0, 0x80), (1, 8), (2, 0), (8, 64)] (fun d p => specClsRuleSet d p rule0) = true ∧
    takes devT [(0, 7), (1, 3), (2, 16383), (8, 0x40)] (specClsRuleGet 0) = true ∧
    takes devT [(0, 8), (2, 7), (4, 0xFAC688), (8, 1), (9, 1), (11, 2), (12, 2)] specClsPortSet = true ∧
    takes devT [(0, 4789), (2, 6081), (8, 7), (15, 0)] specClsParserSet = true ∧
    takes devT [(0, 3), (1, 1), (2, 2), (6, 252), (9, 7), (10, 8), (12, 2), (14, 252)] specClsUdfSet = true ∧
    takes devT [(0, 7), (1, 0x8F), (2, 16), (8, 0x1000)] specClsPuntRingSet = true ∧ 7 < devT.dies.length := by decide

theorem witness_policers_mirrors :
    takes devT [(0, 0x81), (1, 3), (2, 16383), (4, 0xFF), (8, 1600000000), (12, 1600000000), (16, 16777215), (20, 16777215)]
      specPolSet = true ∧
    takes devT [(0, 7), (2, 16383)] specPolGet = true ∧
    takes devT [(0, 15), (2, 1), (3, 7), (4, 9724), (6, 8)] specMirSet = true ∧
    (mirrorOf devT.master 15).enable = false ∧
    takes devT [(0, 7), (1, 0xBF), (2, 8), (4, 1), (8, 0x1000)] specMirTapSet = true := by decide

theorem witness_counters :
    takes devT [(0, 7), (4, 1048575), (8, 1)] (specCntRead 0) = true ∧
    takes devT [(0, 7), (4, 1048560), (8, 16), (16, 0x3000)] (specCntRead 0) = true ∧
    takes devT [(0, 7), (4, generalCounters - 1), (8, 1)] specCntClear = true ∧
    takes devT [(0, 7), (1, 3), (2, 16), (3, 7), (4, 3600000), (8, 0x1000), (16, 1048575), (20, 1)] specCntSnapSet = true ∧
    (let d := onDie devT 7 fun x => { x with snap := { enable := true, home := 7, interval := 10, t0 := minute - 10 * ms } }
     (dieOf d 7).snap.enable = true ∧ expired d (snapDue (dieOf d 7).snap) 0 = true ∧ alive d 7 = true ∧ d.pkg.engaged = false ∧
     snapBlocked d 7 = false ∧ forcedBelow d 7 6 = false ∧ waitsBelow d 7 5 = false ∧
     snapBlocked (onDie d 7 fun x => { x with halted := [1] }) 7 = true) ∧
    (let d := onDie devT 7 fun x => { x with snap := { enable := true, home := 7, interval := 10, t0 := minute - 15 * ms } }
     expired d (snapDue (dieOf d 7).snap) (5 * ms) = true ∧ forcedBelow d 7 5 = false) := by decide

theorem witness_buffers :
    takes devT [(0, 0xFF), (4, 65536)] specQosBufSet = true ∧
    takes devT [(0, 31), (1, 15), (2, 1), (4, 65536), (8, 196608), (12, 196592), (16, 4096), (20, 4194304)]
      specQosBufProfileSet = true ∧
    takes devT [(0, 8), (3, 0xFF), (4, 31)] specQosVoqBind = true ∧
    takes devT [(0, 7), (2, 1), (3, 1), (4, 31)] specQosVoqBind = true ∧
    takes devT [(0, 1023), (2, 10)] specQosTenBufSet = true ∧ takes devT [(0, 7)] specQosBufStatus = true ∧
    takes devT [(0, 7), (1, 1), (2, 7), (4, 7)] specQosVoqStatus = true := by decide

/-- A path table of 64 entries that all take the bridge. -/
def codes0 : List Byte := List.replicate 64 0

theorem witness_fabric :
    takes devT [(0, 0), (1, 7), (8, 64)] (fun d p => specQosPathSet d p codes0) = true ∧
    takes devT [(0, 7), (1, 0), (8, 64)] (specQosPathGet 0) = true ∧ takes devT [(0, 8), (2, 1)] specQosCtSet = true ∧
    takes devT [(0, 7)] specQosFabricStatus = true ∧
    (let d := onDie devT 0 fun x => { x with draining := [(7, List.replicate 64 9)] }
     alive d 0 = true ∧ (dieOf d 0).draining.find? (fun x => x.1 == 7) = some (7, List.replicate 64 9) ∧
     drained d 0 7 = true) := by decide

theorem witness_congestion :
    takes devT [(0, 0xFF), (1, 63), (2, 3), (3, 15), (4, wredTop), (8, wredTop), (28, 256)] specQosWredSet = true ∧
    takes devT [(0, 8), (3, 0x80), (4, 63)] specQosWredBind = true ∧
    takes devT [(0, 8), (2, 2), (3, 0xFF), (4, 0xFF), (6, 65535), (8, 196608), (12, 196607), (16, 65536), (20, 16), (24, 15),
      (28, 10000)] specQosFcSet = true ∧
    takes devT [(0, 8)] specQosFcStatus = true ∧ takes devT [(0, 10000), (4, 65536)] specQosMcSet = true ∧
    takes devT [(0, 65535), (2, 7), (4, 1), (6, 2), (16, 0x4000)] (fun d p => specTblMcgSet d p [5, 0, 6, 0]) = true ∧
    takes devT [(0, 20), (16, 0x4000)] (fun _ => specTblMcgGet 0) = true ∧
    takes devT [(0, 65535)] (fun _ => specTblMcgGet 0) = true := by decide

theorem witness_scheduler :
    takes devT [(0, 8), (2, 1), (3, 64), (4, 1600000), (8, 16777215), (16, 16000)] specQosSchedPortSet = true ∧
    takes devT [(0, 8), (2, 63), (3, 255), (4, 1600000), (8, 1600000), (12, 0x80), (16, 0x0101010101010101)]
      specQosSchedGroupSet = true ∧
    takes devT [(0, 8), (2, 1023), (4, 63)] specQosSchedMapSet = true := by decide

/- Power (PowerCommandsComplete, PowerEventsComplete, ParkingEventsComplete). -/

theorem witness_power_commands :
    takes devT [(0, partPower .km8800), (2, 105), (3, 20), (4, 500)] specPwrCapSet = true ∧
    takes devT [(0, 0xFF), (1, 14), (4, 60000)] specPwrPolicySet = true ∧ takes devT [(0, 7)] specPwrStatus = true ∧
    takes devT [(0, 1023), (2, 7)] specPwrAcctGet = true ∧ (acctOf devT 7 1023).share / 1000 < 4294967296 ∧
    -2147483648 ≤ Int.tdiv (acctOf devT 7 1023).balance 1000 ∧ Int.tdiv (acctOf devT 7 1023).balance 1000 < 2147483648 ∧
    takes devT [(0, 7)] specPwrModelGet = true := by decide

/-- A device whose forecast and cap are at work. -/
def devP : Dev := { devT with
  pkg := { cap := 100, capEff := 2000, k := 15, kAt := 5999 }
  dies := List.replicate 8 { die1 with tab := tab1, temps := [List.replicate 64 1601] } }

theorem witness_power_events :
    devP.grain0.isSome = true ∧ devP.run = .running ∧ windowOver devP = true ∧
    alive devP 7 = true ∧ (dieOf devP 7).sampled < devP.now / (10 * us) ∧ (dieOf devP 7).calFreeze = false ∧ devP.run ≠ .reset ∧
    1760 ≤ tNow [List.replicate 64 1760] 0 ∧ devP.pkg.kAt < tickOf devP / 7812500 ∧
    ((devP.pkg.tLimit : Int) - devP.pkg.margin) * 160 < (applyLimits devP).pkg.fcast ∧ devP.pkg.override = false ∧
    (applyLimits devT).pkg.fcast < ((devT.pkg.tLimit : Int) - devT.pkg.margin) * 160 - 320 ∧
    (let d := { devP with dies := List.replicate 8 { die1 with temps := [List.replicate 64 1568] } }
     (applyLimits d).pkg.fcast = ((d.pkg.tLimit : Int) - d.pkg.margin) * 160 - 320) ∧
    (let d := { devP with dies := List.replicate 8 { die1 with temps := [List.replicate 64 1600] } }
     (applyLimits d).pkg.fcast = ((d.pkg.tLimit : Int) - d.pkg.margin) * 160) ∧
    (let p := { devT.pkg with override := true }
     p.override = true) := by decide +kernel

/-- Die 7 parks its slices and banks: policy 1. -/
def devK : Dev := onDie devT 7 fun x => { x with
  park := 1
  slices := [{ pow := .on }, { pow := .on }, { pow := .on }, { pow := .retention, idleAt := minute - 200 * us }]
  comb := { x.comb with highSince := some (minute - ms), bankOffAt := some (minute - ms) } }

/-- Die 7 with bank 11 closing and bank 10 OFF. -/
def devB : Dev := onDie devK 7 fun x => { x with
  park := 2
  comb := { x.comb with
    banks := List.replicate 10 .on ++ [.off, .closing]
    bankLog := [11, 10]
    bankWakeAt := some (minute - 4 * us)
    held := [⟨0, 0⟩] } }

theorem witness_parking :
    devK.dies.length = 8 ∧ alive devK 7 = true ∧ slicePark devK 7 2 = true ∧ (sliceOf devK 7 2).pow = .on ∧
    expired devK (sliceOf devK 7 2).idleAt (2 * us) = true ∧ slicePark devK 7 3 = true ∧ (sliceOf devK 7 3).pow = .retention ∧
    expired devK (sliceOf devK 7 3).idleAt (200 * us) = true ∧
    (portsOn devK 7 = []) ∧ (banksIn (dieOf devK 7).comb .on).getLast? = some 11 ∧ 11 < (dieOf devK 7).comb.banks.length ∧
    (dieOf devK 7).parked = false ∧ parkAllowed devK 7 = true ∧ (dieOf devK 7).bankPark = true ∧
    (dieOf devK 7).comb.highSince = some (minute - ms) ∧ expired devK (minute - ms) ms = true ∧
    4 < (banksIn (dieOf devK 7).comb .on).length ∧ banksIn (dieOf devK 7).comb .closing = [] ∧
    mayRaise devK (dieOf devK 7).comb.bankOffAt ms = true ∧
    (banksIn (dieOf devB 7).comb .closing).find? (fun k =>
      !(dieOf devB 7).comb.held.any fun h => h.cell / bankCells == k) = some 11 ∧
    (dieOf devB 7).comb.bankLog = [11, 10] ∧ parkAllowed devB 7 = false ∧
    mayRaise devB (dieOf devB 7).comb.bankWakeAt (4 * us) = true ∧
    sharedFree { (dieOf devB 7).comb with free := [] } < 32768 := by decide

/- Time (TimeCommandsComplete, ScheduledActionsComplete, ClockPinEventsComplete). -/

/-- QOS_CT_SET for port 8 as an embedded command. -/
def embed1 : BitVec 512 := BitVec.ofNat 512 (0x0709 + 8 * 2 ^ 64)

def action1 : Action :=
  { id := 1, domain := 0, t := 2000000000, opcode := 0x0709, params := par [(0, 8)], record := [], past := false, readyAt := 0 }

theorem witness_time :
    devT.dies.length = 8 ∧ devT.domains.length = 16 ∧ takes devT [(0, 15)] specTimeGet = true ∧
    takes devT [(0, 15), (1, 0), (16, 65536000000)] specTimeAdj = true ∧
    takes devT [(0, 15), (1, 1), (8, 2 ^ 64 - 1)] specTimeAdj = true ∧ takes devT [(0, 15), (1, 2), (8, 7)] specTimeAdj = true ∧
    takes devT [(0, 15), (1, 3), (8, 7), (16, 2 ^ 64 - 65536000000)] specTimeAdj = true ∧
    takes devT [(0, 8), (2, 14), (3, 15), (4, 50000), (8, 2 ^ 32 - 50000), (12, 1000000), (16, 255)] specTimePortSet = true ∧
    takes devT [(0, 3), (1, 15), (4, 499999999), (8, 400000000), (12, 1000000)] specTimePpsSet = true ∧
    takes devT [] (fun _ _ => specTimePpsGet) = true ∧ takes devT [(0, 7), (1, 1), (2, 64), (8, 16)] (specTimeTxtsRead 0) = true := by
  decide

theorem witness_actions :
    takes devT [(0, 0), (8, 60000000001)] (fun d p => specSchedAdd d p embed1 []) = true ∧
    isPast devT 0 60000000001 = false ∧
    takes devT [(0, 0), (8, 60000000000)] (fun d p => specSchedAdd d p embed1 []) = true ∧
    isPast devT 0 60000000000 = true ∧ isActive devT = true ∧ devT.actions.length < two32 ∧
    takes { devT with actions := [{ action1 with t := 70000000000 }] } [(0, 1)] specSchedDel = true ∧
    takes devT [(0, 1)] (fun _ => specSchedGet) = true ∧ actionsRun devT = true ∧
    actionDue { devT with actions := [action1] } action1 = true := by decide

/-- PPS pins in use, with a pulse under way, and the boundary clock of domain 15 on port 8. -/
def devC : Dev :=
  onPort { devT with
    pps := { inEn := true, outEn := true, nextN := some 59, outRose := some (minute - 500 * ms), lastIn := some (minute - 500 * ms) }
    ppsIn := { lowAt := some (minute - ms) } } 8 fun q => { q with set := { q.set with bcEn := true, bcDomain := 15 } }

theorem witness_clock_pins :
    15 < devC.domains.length ∧ devC.run = .running ∧ devC.grain0.isSome = true ∧ 15 < domainCount devC.part ∧
    bcUses devC 15 = true ∧ bcPort devC 15 8 = true ∧ clockWaiting devC 15 = none ∧ rateOk (-65536000000) = true ∧ (dieOf devC 0).keeper = .running ∧
    (-65536000000 : Int) ≠ (domainOf devC 15).rate ∧ pinsUp devC = true ∧ devC.pps.inEn = true ∧
    pinReady devC devC.ppsIn = true ∧ (∀ u, devC.pps.lastIn = some u → u + 500 * ms ≤ minute) ∧
    (let d := { devC with ppsIn := { level := true } }
     pinsUp d = true ∧ d.ppsIn.level = true) ∧
    devC.pps.outEn = true ∧ (∀ m, devC.pps.nextN = some m → m < ppsSecond devC (domainNow devC devC.pps.outDomain)) ∧
    mayRaise devC devC.pps.outRose (500 * ms) = true ∧
    (let d := { devC with pps := { devC.pps with out := true, outRose := some (minute - 125 * 10000000) } }
     d.pps.out = true ∧ d.pps.outRose = some (minute - 1250000000) ∧
       2 * (minute - 1250000000) + 25 * d.pps.outWidth ≤ 2 * d.now) := by decide

/- Pairing (PairingCommandsComplete, LeaseEventsComplete, PeerFramesComplete, RoleChangesComplete). -/

/-- A paired package that holds the lease with an IN_SYNC standby. -/
def devH : Dev := { devT with
  ports := devT.ports ++ [(0x5C, link0)]
  ha := { paired := true, holder := true, epoch := 7, seen := 7, sync := .inSync, renewN := 3, renewAt := minute - ms + 1,
          waiting := true, ansAt := some (minute - 19 * ms), sawRenew := true, sawPeer := true, peerPref := true,
          inSyncAt := minute - 30 * sec, seq := 41, recvd := 41, applied := 41 } }

/-- Its peer: an IN_SYNC standby that has seen no renewal for 22 ms. -/
def devS : Dev := { devT with
  ports := [(0, { link0 with farRole := 2, farRoleAt := some (minute - ms), upAt := 0 })] ++ devT.ports.drop 1 ++ [(0x5C, link0)]
  ha := { paired := true, sync := .inSync, seen := 7, epoch := 7, seenAt := minute - 22 * ms, seq := 41, applied := 41,
          edgeAt := some (minute - ms), peerHolds := true, sawPeer := true } }

/-- A frame of a peer that holds the lease with EPOCH `e`. -/
def holderSends (e kind number seq count : Nat) (entries : List Byte) : List Byte :=
  peerFrame { devH with ha := { devH.ha with epoch := e } } kind number seq 0 count entries

/-- A frame of an IN_SYNC standby. -/
def standbySends (kind number : Nat) : List Byte := peerBytes devS kind number 43 44

/-- ENTRIES with one entry of SEQ `n`, of a kind and with a body of its own. -/
def entry (n kind : Nat) (body : List Byte) : List Byte := entryBytes devH n kind 7 body

theorem witness_pairing_commands :
    takes devH [(0, 1), (2, 200), (4, 3600)] specHaConfig = true ∧ takes devS [] (fun _ _ => specHaStatus) = true ∧
    takes devH [] (fun d _ => specHaHandover d) = true ∧ takes devS [] (fun d _ => specHaResync d) = true ∧
    takes { devS with ha := { devS.ha with sync := .stale } } [] (fun d _ => specHaResync d) = true := by decide

theorem witness_lease_events :
    devH.dies.length = 8 ∧ isHolder devH = true ∧
    expired { devH with ha := { devH.ha with renewAt := minute - 5 * ms } } (minute - 5 * ms) (devH.ha.inForce * ms / 4) = true ∧
    (let d := { devH with ha := { devH.ha with queenOut := true, queenAt := minute - 500 * us } }
     d.ha.queenOut = true ∧ expired d d.ha.queenAt (500 * us) = true) ∧
    isStandby devS = true ∧ devS.ha.sawRenew = false ∧ peerUp devS = true ∧ peerOpen devS = true ∧ peerOpen devH = true ∧
    expired devS devS.ha.annAt (leaseNow devS * ms / 4) = true ∧
    (let d := { devH with ha := { devH.ha with renewAt := minute - ms } }
     pairRuns d = true ∧ d.ha.waiting = true ∧ expired d d.ha.renewAt ms = true) ∧
    pinsUp devH = true ∧ pinReady devH devH.queen = true ∧ mayRaise devH devH.ha.edgeAt ms = true ∧ inTime devH = true ∧
    pinsUp devS = true ∧ pinReady devS devS.queen = true ∧ mayRaise devS devS.ha.edgeAt ms = true ∧ answers devS = true ∧
    (let d := { devS with ha := { devS.ha with edgeAt := some (minute - ms + 1) } }
     d.queen.level = false ∧ mayRaise d d.ha.edgeAt ms = false) ∧
    (let d := { devS with queen := { level := true } }
     pinsUp d = true ∧ d.queen.level = true) := by decide

theorem witness_peer_frames :
    devH.dies.length = 8 ∧ peerRx devH = true ∧ peerRx devS = true ∧ peerLayout [] = false ∧
    (let f := standbySends 3 0
     peerLayout f = true ∧ peerKind f = 3) ∧
    (let f := holderSends 32774 1 4 41 0 []
     peerLayout f = true ∧ peerKind f = 1 ∧ devH.ha.holder = true ∧ newer (peerHdr f).epoch.toNat devH.ha.epoch = true) ∧
    (let f := holderSends 8 1 4 41 0 []
     peerLayout f = true ∧ peerKind f = 1 ∧ devS.ha.holder = false ∧ newer (peerHdr f).epoch.toNat devS.ha.seen = true) ∧
    (let f := holderSends 7 1 4 41 0 []
     peerLayout f = true ∧ peerKind f = 1 ∧ (peerHdr f).epoch.toNat = devS.ha.seen) ∧
    (let f := standbySends 2 3
     peerLayout f = true ∧ peerKind f = 2 ∧ (peerHdr f).number.toNat = devH.ha.renewN ∧
       (peerHdr f).epoch.toNat = devH.ha.epoch ∧ inTime devH = true) := by decide +kernel

theorem witness_bulk_peer_frames :
    (let f := standbySends 4 0
     peerLayout f = true ∧ peerKind f = 4 ∧ devH.ha.holder = true ∧ devH.ha.sync = .inSync ∧ (peerHdr f).holder = false ∧
       (peerHdr f).sync = 3 ∧ (peerHdr f).fw.toNat = devH.fwVersion) ∧
    (let f := holderSends 7 5 0 42 1 (entry 42 6 [7])
     peerLayout f = true ∧ peerKind f = 5 ∧ peerSeqs f = some [42] ∧ devS.ha.holder = false ∧ devS.ha.sync = .inSync ∧
       (peerHdr f).fw.toNat = devS.fwVersion ∧ 42 = devS.ha.seq + 1) ∧
    (let f := holderSends 7 5 0 43 1 (entry 43 1 (List.replicate 8 0))
     peerLayout f = true ∧ peerKind f = 5 ∧ peerSeqs f = some [43] ∧ 43 ≠ devS.ha.seq + 1) ∧
    (let f := holderSends 7 6 0 41 1 (entry 41 18 [])
     let d := { devS with ha := { devS.ha with sync := .resyncing } }
     peerLayout f = true ∧ peerKind f = 6 ∧ peerSeqs f = some [41] ∧ peerRx d = true ∧ d.ha.sync = .resyncing ∧
       d.ha.based = false) := by decide +kernel

/-- R157, R158: a COUNT that does not fit ENTRIES, a KIND of another frame and a padding byte that is not 0 spoil a frame. -/
theorem test_peer_layout :
    [holderSends 7 5 0 42 2 (entry 42 6 [7]), holderSends 7 5 0 42 1 (entry 42 16 [7]), holderSends 7 6 0 42 1 (entry 42 6 [7]),
      holderSends 7 5 0 42 1 (entry 42 6 [7] ++ [0]), holderSends 7 5 0 42 1 ((entry 42 6 [7]).take 31 ++ [1]),
      holderSends 7 1 3 42 1 (entry 42 6 [7])].all (fun f => !peerLayout f) = true := by decide +kernel

theorem witness_roles :
    isHolder devH = true ∧ devH.ha.ansAt = some (minute - 19 * ms) ∧
    expired devH (minute - 19 * ms) ((devH.ha.inForce - 1) * ms) = true ∧ mayTake devS = true ∧
    expired devS devS.ha.seenAt ((leaseNow devS + 2) * ms) = true ∧
    (let d := { devS with ha := { devS.ha with
       preferred := true
       activeAt := some (minute - 45 * ms)
       frameAt := some (minute - 45 * ms)
       readyAt := minute - 44 * ms } }
     mayTake d = true ∧ d.readyOnce = true ∧ d.ha.preferred = true ∧ (∀ u, d.ha.activeAt = some u → u < d.ha.readyAt) ∧
       (∀ u, d.ha.frameAt = some u → u < d.ha.readyAt) ∧ expired d d.ha.readyAt (2 * (leaseNow d + 2) * ms) = true) ∧
    (let d := { devS with ha := { devS.ha with soloOk := true, sync := .stale, peerAt := some (minute - 44 * ms) } }
     mayTake d = true ∧ d.ha.soloOk = true ∧ d.ha.newer = false ∧
       mayRaise d d.ha.ansAt (2 * (d.ha.inForce + 2) * ms) = true ∧ mayRaise d d.ha.peerAt (2 * (d.ha.inForce + 2) * ms) = true ∧
       shellHeard d (2 * (d.ha.inForce + 2) * ms) = true) ∧
    (let d := { devH with ha := { devH.ha with buffer := [(41, minute - 10 * ms)] } }
     isHolder d = true ∧ journaling d = true ∧ 10 * ms ≤ lagOf d) ∧
    (let d := { devS with ha := { devS.ha with sync := .stale } }
     isStandby d = true ∧ d.ha.auto = true ∧ d.ha.sync = .stale ∧ holderNear d = true ∧ alive d 7 = true) ∧
    (let d := { devS with ha := { devS.ha with sync := .resyncing, lastSnap := true } }
     isStandby d = true ∧ d.ha.sync = .resyncing ∧ d.ha.lastSnap = true) ∧
    (let d := { devH with ha := { devH.ha with handover := true } }
     isHolder d = true ∧ d.ha.handover = true ∧ d.ha.sync = .inSync ∧ d.ha.buffer = []) ∧
    devH.ha.preferred = false ∧ devH.ha.peerPref = true ∧ peerUp devH = true ∧ devH.ha.holdDown ≠ 0 ∧
    expired devH devH.ha.inSyncAt (devH.ha.holdDown * sec) = true ∧
    follows devS = true ∧ expired devS devS.ha.receiptAt (100 * us) = true := by decide

/- Memories and Keepers (MemoryCommandsComplete, KeeperAndForagerComplete, KeeperAndForagerComplete). -/

theorem witness_memory :
    devT.dies.length = 8 ∧ takes devT [(0, 0xFF), (2, 1440), (4, 10), (6, 1440)] specMemScrubSet = true ∧
    takes devT [(0, 7), (1, 7), (2, 1), (8, 64)] (specMemLogRead 0) = true ∧ takes devT [(0, 7), (1, 7), (8, 64)] (specMemLogRead 0) = true ∧
    takes devT [(0, 7), (4, 4194303)] specMemRetire = true ∧ takes devT [(0, 7), (1, 1), (4, 3071)] specMemRetire = true ∧
    takes devT [(0, 7)] specMemStatus = true ∧ takes devT [(0, 7), (1, 3)] specMemChannelRestart = true := by decide

/-- Die 7 has trapped three times in the last second; die 6 restarts. -/
def devR : Dev := onDie (onDie devT 7 fun x => { x with
  traps := [minute - 1, minute - 2, minute - sec + 1]
  comb := { x.comb with listBroken := true } }) 6 fun x => { x with keeper := .restarting, traps := [minute - 1, minute - 2] }

theorem witness_keepers :
    devR.dies.length = 8 ∧ alive devR 6 = true ∧ devR.run = .running ∧ (dieOf devR 6).keeper = .restarting ∧
    ((dieOf devR 6).traps.filter fun u => decide (devR.now < u + sec)).length < 3 ∧ mirrorComplete devR = true ∧
    alive devR 7 = true ∧ (dieOf devR 7).keeper = .running ∧
    3 ≤ ((dieOf devR 7).traps.filter fun u => decide (devR.now < u + sec)).length ∧ (dieOf devR 6).late = [] ∧ 6 ∉ [7] ∧
    mirrorDie devR = some 1 ∧ (dieOf devR 1).keeper = .running ∧ (dieOf devR 0).keeper = .running ∧ (dieOf devR 7).comb.listBroken = true ∧
    (portOf (onPort devR 8 fun q => { q with creditStop := true }) 8).creditStop = true := by decide

theorem witness_forager_dma :
    alive devT 7 = true ∧ devT.run = .running ∧ (dieOf devT 7).walk.length = 6 ∧ devT.pkg.engaged = false ∧
    (let d := onDie devT 7 fun x => { x with walkAt := List.replicate 6 minute }
     expired d ((dieOf d 7).walkAt.getD 5 0) 0 = true ∧ forcedBelow d 7 6 = false ∧ waitsBelow d 7 4 = false) ∧
    (let d := onDie devT 7 fun x => { x with walkAt := List.replicate 6 (minute - sec) }
     expired d ((dieOf d 7).walkAt.getD 5 0) sec = true ∧ agingForced d 7 = false) ∧
    (∀ e ∈ [(7, MemErr.ce 3), (0, MemErr.ce 255)], ∃ syn, e.2 = MemErr.ce syn) ∧ (dieOf devT 7).mbHalt = false ∧ 3 ∉ (dieOf devT 7).halted := by
  refine ⟨by decide, by decide, by decide, by decide, by decide, by decide, ?_, by decide, by decide⟩
  intro e he
  rcases List.mem_cons.mp he with rfl | he
  · exact ⟨_, rfl⟩
  · rw [List.mem_singleton.mp he]
    exact ⟨_, rfl⟩

/- Security (SecurityReadsComplete, SecurityWritesComplete). -/

theorem witness_security_reads :
    Memory.wf devT.mem = true ∧ takes devT [(32, 64)] (fun _ => specSecAttest 0 {}) = true ∧
    takes devT [] (fun _ _ => specSecFlashStatus {}) = true ∧
    takes devT [(0, 11), (1, 7), (4, 48), (8, 0), (16, 8)] (specSecFuseRead 0 {}) = true := by decide

/-- FUSE_PROG_EN was set a moment ago. -/
def aonF : Aon := { fuseEn := some (minute - 10 * sec + 1), secVersion := 64 }

theorem witness_fuse_program :
    Accepted { (st devT) with aon := aonF } (cmd [(0, 5), (16, 0x4000)]) (specSecFuseProgram aonF devT (par [(0, 5), (16, 0x4000)])
      [1]) = true ∧
    Accepted { (st devT) with aon := aonF } (cmd [(0, 6), (8, 64)]) (specSecFuseProgram aonF devT (par [(0, 6), (8, 64)]) []) = true ∧
    Accepted { (st devT) with aon := aonF } (cmd [(0, 7), (8, 1)]) (specSecFuseProgram aonF devT (par [(0, 7), (8, 1)]) []) = true := by
  decide

theorem crcShift_lt {p r : Nat} (hp : p < 2 ^ 32) (hr : r < 2 ^ 32) : crcShift p r < 2 ^ 32 := by
  unfold crcShift
  split
  · exact Nat.xor_lt_two_pow (by omega) hp
  · omega

theorem crcByte_lt {p r : Nat} (b : Byte) (hp : p < 2 ^ 32) (hr : r < 2 ^ 32) : crcByte p r b < 2 ^ 32 := by
  have hx : r ^^^ b.toNat < 2 ^ 32 := Nat.xor_lt_two_pow hr (by have := b.isLt; omega)
  unfold crcByte
  exact crcShift_lt hp (crcShift_lt hp (crcShift_lt hp (crcShift_lt hp (crcShift_lt hp (crcShift_lt hp (crcShift_lt hp
    (crcShift_lt hp hx)))))))

theorem crc_foldl_lt {p : Nat} (hp : p < 2 ^ 32) (l : List Byte) {r : Nat} (hr : r < 2 ^ 32) :
    l.foldl (crcByte p) r < 2 ^ 32 := by
  induction l generalizing r with
  | nil => exact hr
  | cons b t ih => exact ih (crcByte_lt b hp hr)

theorem crc32c_lt (l : List Byte) : crc32c l < 2 ^ 32 :=
  Nat.xor_lt_two_pow (crc_foldl_lt (by decide) l (by decide)) (by decide)

theorem ofLe_leBytes4 {x : Nat} (h : x < 2 ^ 32) : ofLe (leBytes 4 x) = x := by
  simp only [leBytes, ofLe, BitVec.toNat_ofNat]
  omega

/- A configuration block with SEQ 1, no corrections and its CRC. -/

/-- Its first 20 bytes. -/
def head1 : List Byte := [0x4B, 0x4D, 0x43, 0x46] ++ leBytes 2 1 ++ leBytes 2 (partCode .km8800) ++ leBytes 4 1 ++ leBytes 4 cfgLen ++ leBytes 4 0

def zeros (n : Nat) : List Byte := List.replicate n 0
def body1 : List Byte := head1 ++ zeros 13932
def block : List Byte := body1 ++ leBytes 4 (crc32c body1)

theorem body1_length : body1.length = 13952 := by
  simp only [body1, zeros, List.length_append, List.length_replicate]
  decide

theorem block_length : block.length = 13956 := by
  simp [block, body1_length, leBytes]

theorem block_zero {i n : Nat} (hi : 20 ≤ i) (hn : i + n ≤ 13952) : slice block i n = zeros n := by
  have hh : head1.length = 20 := by decide
  have e : block.drop i = zeros (13952 - i) ++ leBytes 4 (crc32c body1) := by
    rw [block, List.drop_append_of_le_length (by rw [body1_length]; omega), body1, List.drop_append, hh,
      List.drop_eq_nil_of_le (by omega), zeros, List.drop_replicate]
    simp only [List.nil_append, zeros]
    congr 2
    omega
  rw [slice, e, List.take_append_of_le_length (by simp [zeros]; omega), zeros, List.take_replicate]
  simp only [zeros]
  congr 1
  omega

theorem ofLe_zeros (n : Nat) : ofLe (zeros n) = 0 := by
  induction n with
  | zero => rfl
  | succ k ih =>
    show (0 : Byte).toNat + 256 * ofLe (zeros k) = 0
    simp [ih]

theorem block_field {i n : Nat} (hi : 20 ≤ i) (hn : i + n ≤ 13952) : fieldAt block i n = 0 := by
  rw [fieldAt, block_zero hi hn, ofLe_zeros]

theorem block_signed {i n : Nat} (hi : 20 ≤ i) (hn : i + n ≤ 13952) : signedAt block i n = 0 := by
  rw [signedAt, block_field hi hn]
  simp [signedOf]

theorem block_crc : fieldAt block 13952 4 = crc32c (block.take 13952) := by
  have h1 : block.take 13952 = body1 := by
    rw [block, List.take_append_of_le_length (Nat.le_of_eq body1_length.symm), List.take_of_length_le (Nat.le_of_eq body1_length)]
  have h2 : slice block 13952 4 = leBytes 4 (crc32c body1) := by
    rw [slice, block, List.drop_append, List.drop_eq_nil_of_le (Nat.le_of_eq body1_length), body1_length]
    simp [leBytes]
  rw [h1, fieldAt, h2, ofLe_leBytes4 (crc32c_lt _)]

theorem block_fields : cfgFieldsOk .km8800 block = true := by
  have hl : ∀ k, k < 768 → laneRecordOk block (64 + 16 * k) = true := by
    intro k hk
    simp only [laneRecordOk]
    rw [block_signed (by omega) (by omega), block_signed (by omega) (by omega), block_signed (by omega) (by omega),
      block_signed (by omega) (by omega), block_signed (by omega) (by omega), block_field (by omega) (by omega),
      block_field (by omega) (by omega)]
    decide
  have hr : ∀ k, k < 48 → railRecordOk block (13376 + 8 * k) = true := by
    intro k hk
    simp only [railRecordOk]
    rw [block_signed (by omega) (by omega), block_signed (by omega) (by omega), block_signed (by omega) (by omega)]
    decide
  have hs : ∀ k, k < 512 → signedAt block (12352 + 2 * k) 2 = 0 := fun k hk => block_signed (by omega) (by omega)
  have ha : slice block 0 4 == [0x4B, 0x4D, 0x43, 0x46] && fieldAt block 4 2 == 1 && fieldAt block 6 2 == partCode .km8800
      && seqInRange block && fieldAt block 12 4 == cfgLen && decide (fieldAt block 16 4 < 4) := by decide
  have hz : fieldAt block 20 44 = 0 := block_field (by omega) (by omega)
  unfold cfgFieldsOk
  rw [ha, hz]
  generalize hn : (768 : Nat) = n1
  generalize hm : (512 : Nat) = n2
  simp only [Bool.true_and, BEq.rfl, Bool.and_true, Bool.and_eq_true, List.all_eq_true, List.mem_range]
  subst hn hm
  refine ⟨⟨fun k hk => ?_, fun k hk => ?_⟩, fun k hk => ?_⟩
  · rw [if_pos (by simp only [dieCount]; omega)]; exact hl k hk
  · rw [if_pos (by simp only [dieCount]; omega), hs k hk]; decide
  · rw [if_pos (by simp only [dieCount]; omega)]; exact hr k hk

theorem block_ok (a : Aon) (h : a.opKey = none) : cfgOk a .km8800 block = true := by
  unfold cfgOk
  rw [block_fields, block_crc, block_length, opApproves, h]
  simp [cfgLen]
theorem witness_cfg_write :
    Accepted (st devT) (cmd [(4, 13956), (8, 64)]) (specSecCfgWrite {} devT (par [(4, 13956), (8, 64)]) block) = true := by
  have hp : padTo cfgLen block = block := by
    rw [padTo, cfgLen, block_length, Nat.sub_self, List.replicate_zero, List.append_nil,
      List.take_of_length_le (Nat.le_of_eq block_length)]
  have hq : seqOfCopy block = 1 := by decide
  unfold specSecCfgWrite
  simp only [hp, hq]
  rw [show devT.part = .km8800 from rfl, block_ok {} rfl]
  decide

/-- A firmware image without code, SEQ 1, for every part, with its CRC. -/
def image1 : List Byte :=
  let l := padTo 224 ([0x4B, 0x4D, 0x46, 0x57] ++ leBytes 2 1 ++ leBytes 2 7 ++ leBytes 4 1)
  l ++ leBytes 4 (crc32c l)

/-- The fuses hold the digest of the image's key, and its signature verifies. -/
def Signed (a : Aon) : Prop :=
  (digestBytes (Config.sha384 (slice image1 32 96)) == fuseBytes a 4 0 48) = true ∧
    Config.ecdsaVerifies (slice image1 32 96) (image1.take 128) (slice image1 128 96) = true

theorem image_ok (a : Aon) (hr : a.rollback = 0) (h : Signed a) : fwOk a .km8800 image1 = true := by
  have hn : fieldAt image1 20 4 = 0 := by decide +kernel
  unfold fwOk
  simp only [hn, Nat.add_zero, h.1, h.2, hr]
  decide +kernel

theorem witness_fw_write (h : Signed {}) :
    Accepted (st devT) (cmd [(4, 228), (8, 64)]) (specSecFwWrite {} devT (par [(4, 228), (8, 64)]) image1) = true ∧
      bitOf (pf (cmd [(4, 228), (8, 64)]).params 0 1) 0 = false := by
  refine ⟨?_, by decide⟩
  have hp : padTo (min (pf (par [(4, 228), (8, 64)]) 4 4) 524288) image1 = image1 := by decide +kernel
  have hj : judgeFw {} .km8800 = 0 := by
    have h0 : fwOk {} .km8800 [] = false := by
      simp only [fwOk, show fwFieldsOk .km8800 [] = false from by decide, Bool.false_and]
    have h1 : fwCopy {} 0 = [] := rfl
    have h2 : fwCopy {} 1 = [] := rfl
    show (List.map (fun n => atBit n (fwOk {} .km8800 (fwCopy {} n))) [0, 1]).sum = 0
    rw [List.map_cons, List.map_cons, List.map_nil, h1, h2, h0]
    decide
  unfold specSecFwWrite
  simp only [hp]
  rw [show devT.part = .km8800 from rfl, image_ok {} rfl h, hj]
  decide +kernel

/- Registers (DoorbellsAndWindowComplete, RegistersComplete, GuardComplete, GuardedControlsComplete). -/

/-- Die 7 with a write at the front of its indirect queue. -/
def devI (a : Nat) (v : Word) : Dev := onDie devT 7 fun x => { x with
  indAddr := a
  indQ := [.data v]
  rings := {} :: x.rings.drop 1
  mbHalt := true }

theorem witness_doorbells :
    devT.dies.length = 8 ∧ (∀ x ∈ devT.dies, x.rings.length = 8) ∧ regsUp devT 7 = true ∧ (dieOf devT 7).ready = true ∧
    (ringOf devT 7 0).enable = true ∧ (256 % two16 + two16 - (ringOf devT 7 0).fetch) % two16 ≤ 256 ∧
    256 < (257 % two16 + two16 - (ringOf devT 7 0).fetch) % two16 ∧ (dieOf devT 7).evt.enable = true ∧
    (0 % two16 + two16 - (dieOf devT 7).evt.write) % two16 = 0 ∧
    64512 < (64513 % two16 + two16 - (dieOf devT 7).evt.write) % two16 ∧ (dieOf (devI 0 0) 7).mbHalt = true ∧
    regsUp (devI 0 0) 7 = true ∧ bitOf 1 0 = true ∧ (dieOf devT 7).indQ = [] ∧
    (let d := onDie devT 7 fun x => { x with indQ := .addr 0 :: List.replicate 8 (.data 1) }
     regsUp d 7 = true ∧ 8 ≤ (dieOf d 7).indQ.countP fun w => match w with
       | .data _ => true
       | _ => false) := by decide

theorem witness_window :
    (∀ x ∈ (devI 0 0).dies, x.rings.length = 8) ∧ alive (devI 0 0) 7 = true ∧ indClass (devI 0xF0 1) 7 = .ringOn ∧
    indClass (onDie (devI 0x10 0) 7 fun x => { x with rings := ring1 :: x.rings.drop 1 }) 7 = .ringOff ∧
    indClass (onDie (devI 0x108 1) 7 fun x => { x with evt := {} }) 7 = .evtOn ∧ indClass (devI 0x108 0) 7 = .evtOff ∧
    (dieOf (devI 0xE0 0xFFFFFFFF) 7).indQ = [.data 0xFFFFFFFF] ∧ (dieOf (devI 0xE0 0) 7).indAddr = 32 * 7 ∧ (ringOf (devI 0xE0 0) 7 7).enable = false ∧
    indMapped 7 0x10C = false := by decide

theorem witness_registers :
    regsUp devT 7 = true ∧ 0x200 % 4 = 0 ∧ 0x1A4 % 4 = 0 ∧ (64 * 15 + 0x10) % 4 = 0 ∧ 0x600 % 4 = 0 ∧ (dieOf devT 7).indQ = [] ∧ (dieOf (devI 0 9) 7).indQ = [.data 9] ∧
    regsUp (devI 0 9) 7 = true ∧ (14 : BitVec 4) ≠ 15 ∧ fnUp devT 7 (ringFn (.punt 15)) = true ∧
    fnUp devT 7 (ringFn (.tap 63)) = true ∧
    (pRingOf (dieOf devT 7) (.punt 15)).tail.length = 3 ∧
    (256 + two32 - (pRingOf (dieOf devT 7) (.punt 15)).taken.getD 2 0) % two32 ≤ 2 ^ (pRingOf (dieOf devT 7) (.punt 15)).log2 ∧
    2 ^ (pRingOf (dieOf devT 7) (.tap 63)).log2 < (257 + two32 - (pRingOf (dieOf devT 7) (.tap 63)).taken.getD 2 0) % two32 ∧
    (let d := onDie devT 7 fun x => { x with pRings := [(.punt 0, { write := 9, cons := 4 })] }
     regsUp d 7 = true ∧
     (9 + two32 - (pRingOf (dieOf d 7) (.punt 0)).cons) % two32 ≤
       ((pRingOf (dieOf d 7) (.punt 0)).write + two32 - (pRingOf (dieOf d 7) (.punt 0)).cons) % two32 ∧
     ((pRingOf (dieOf d 7) (.punt 0)).write + two32 - (pRingOf (dieOf d 7) (.punt 0)).cons) % two32 <
       (10 + two32 - (pRingOf (dieOf d 7) (.punt 0)).cons) % two32) ∧
    (vecOf (dieOf devT 7) .pf0 31).due = false ∧
    (let v : Vec := { due := true, p := 1, masked := false, lastAt := some (minute - us), since := minute - 7 * us, time := 7 }
     let d := onDie devT 7 fun x => { x with vecs := [(.vf 63, 0, { v with addr := 0xFEE00000, data := 5 })] }
     regsUp d 7 = true ∧ (vecOf (dieOf d 7) (.vf 63) 0).due = true ∧ mayRaise d (vecOf (dieOf d 7) (.vf 63) 0).lastAt us = true ∧
       0 < (vecOf (dieOf d 7) (.vf 63) 0).p ∧ (vecOf (dieOf d 7) (.vf 63) 0).masked = false ∧
       expired d (vecOf (dieOf d 7) (.vf 63) 0).since ((vecOf (dieOf d 7) (.vf 63) 0).time * us) = true) := by decide

/-- A sequence armed with VALUE for a target, 63 AON cycles ago. -/
def armed (target : Nat) (v : Word) : State :=
  { aon := { sel := target, armed := some (v, target, minute - 63 * 500) }, dev := devT }

theorem witness_guard :
    regsUp devT 7 = true ∧ bitOf 1 0 = true ∧ regsUp devT 0 = true ∧ ({ lock := true } : Aon).lock = true ∧
    (armed 1 1).aon.lock = false ∧ (armed 1 1).aon.armed.isSome = true ∧ (st devT).aon.armed = none ∧
    guardOver (armed 1 1) = false ∧ guardWrites (armed 1 1) 5 = none ∧ guardWrites (st devT) 0xFFFFFFFE = none ∧
    guardOver { armed 1 1 with dev := { devT with now := minute + 500 } } = true ∧
    ({ fuseEn := some (minute - 10 * sec) } : Aon).fuseEn = some (minute - 10 * sec) ∧
    expired devT (minute - 10 * sec) (10 * sec) = true := by decide

theorem witness_guarded :
    regsUp devT 0 = true ∧ (armed 1 1).aon.lock = false ∧ (armed 1 1).aon.armed = some (1, 1, minute - 63 * 500) ∧
    aonCycle minute < aonCycle (minute - 63 * 500) + 64 ∧ regsUp devS 0 = true ∧ regsUp devH 0 = true ∧ regsUp (parkDie devT 7) 0 = true ∧
    guardWrites (armed 1 1) 0xFFFFFFFE = some (1, 1) ∧ guardWrites (armed 1 0) 0xFFFFFFFF = some (1, 0) ∧
    guardWrites (armed 2 0x80) 0xFFFFFF7F = some (2, 0x80) ∧ parksMore (armed 2 0x80).aon devT 0x80 = true ∧
    devT.run = .running ∧ alive devT 7 = true ∧ bitOf (parkValue devT 0x80) 7 = true ∧
    (let s := armed 2 0
     let s : State := { s with
       aon := { s.aon with park := 0x80 }
       dev := parkDie devT 7 }
     guardWrites s 0xFFFFFFFF = some (2, 0) ∧ parksMore s.aon s.dev 0 = false ∧ s.dev.run = .running ∧
       bitOf (parkValue s.dev 0) 7 = false ∧ bitOf s.aon.park.toNat 7 = true ∧ (dieOf s.dev 7).parked = true) ∧
    guardWrites { armed 3 1 with dev := devS } 0xFFFFFFFE = some (3, 1) ∧ forceRuns devS = true ∧ devS.thermal = false ∧
    guardWrites { armed 3 2 with dev := devH } 0xFFFFFFFD = some (3, 2) ∧ forceRuns devH = true ∧
    guardWrites (armed 4 1) 0xFFFFFFFE = some (4, 1) := by decide

/- Start-up and stops (StartupComplete, StopsComplete). -/

theorem witness_recovery :
    State.reset.dev.dies.length = 8 ∧ State.reset.dev.run = .reset ∧
    judgeFw State.reset.aon .km8800 = 0 ∧ pickFw { State.reset.aon with fwValid := 0 } = none := by
  refine ⟨by decide, by decide, ?_, by decide⟩
  have h0 : fwOk {} .km8800 [] = false := by
    simp only [fwOk, show fwFieldsOk .km8800 [] = false from by decide, Bool.false_and]
  show (List.map (fun n => atBit n (fwOk {} .km8800 (fwCopy {} n))) [0, 1]).sum = 0
  rw [List.map_cons, List.map_cons, List.map_nil, show fwCopy {} 0 = [] from rfl, show fwCopy {} 1 = [] from rfl, h0]
  decide

/-- The flash holds the image as firmware copy A. -/
def aonB : Aon := { flash := [[], [], image1, []] }

theorem witness_start (h : Signed aonB) :
    judgeFw aonB .km8800 = 1 ∧ pickFw { aonB with fwValid := judgeFw aonB .km8800, badFw := [] } = some 0 := by
  have hj : judgeFw aonB .km8800 = 1 := by
    have h0 : fwOk aonB .km8800 [] = false := by
      simp only [fwOk, show fwFieldsOk .km8800 [] = false from by decide, Bool.false_and]
    show (List.map (fun n => atBit n (fwOk aonB .km8800 (fwCopy aonB n))) [0, 1]).sum = 1
    rw [List.map_cons, List.map_cons, List.map_nil, show fwCopy aonB 0 = image1 from rfl, show fwCopy aonB 1 = [] from rfl, h0,
      image_ok aonB rfl h]
    decide
  rw [hj]
  exact ⟨rfl, by decide⟩

theorem witness_resets :
    devT.pwrOk = true ∧ hasDie devT 7 = true ∧ (∀ x ∈ devT.dies, x.rings.length = 8) ∧
    (let d := onDie devT 7 fun x => { x with perst := true }
     (dieOf d 7).perst = true ∧ d.run = .running) ∧
    (let d := onDie devT 7 fun x => { x with ready := false, perstAt := minute - 100 * ms }
     alive d 7 = true ∧ (dieOf d 7).perst = false ∧ (dieOf d 7).ready = false ∧ (dieOf d 7).keeper ≠ .booting ∧
       expired d (dieOf d 7).perstAt (100 * ms) = true) := by decide

theorem witness_stops :
    devT.run = .running ∧ (8 ∈ configured devT) ∧ pinReady devT devT.fault = true ∧
    (let d := { devT with fault := { level := true } }
     d.fault.level = true) ∧
    (let d := { devT with thermal := true, coolAt := some (minute - 100 * ms) }
     d.thermal = true ∧ d.coolAt = some (minute - 100 * ms) ∧ coolNow d = true ∧ expired d (minute - 100 * ms) (100 * ms) = true) ∧
    ({} : Aon).dbgDisable = false ∧ devT.run ≠ .reset ∧ alive devT 0 = true ∧ alive devT 7 = true := by decide

/- Links (BringupEventsComplete, BringupTimersComplete). -/

/-- Link 4 with two lanes, and its lanes. -/
def devL (q : Port) (x : Lane) : Dev := { devT with
  ports := (4, { q with conf := { mode := 1, width := 2, rate := 4 }, run := { mode := 1, width := 2, rate := 4 } }) :: devT.ports
  lanes := (4, x) :: (5, x) :: devT.lanes }

/-- A HELLO of lane 1 of a link of two lanes at rate code 4, that reports training done. -/
def hello1 : BitVec 40 := BitVec.ofNat 40 (1 + 1 * 2 ^ 3 + 4 * 2 ^ 5 + 1 * 2 ^ 8 + 2 ^ 13)

theorem witness_bringup_signal :
    devT.dies.length = 8 ∧ alive devT (dieOfPort 900) = true ∧ (laneOf devT 900).sdRaw ≠ true ∧
    (let d := devL { link := .seek } { sdRaw := true, sdSince := some (minute - 10 * us) }
     (laneOf d 5).sdSince = some (minute - 10 * us) ∧ expired d (minute - 10 * us) (10 * us) = true) ∧
    (let d := devL { link := .stepping, phase := .lock, helloNext := minute } {}
     isSpindle d 4 = true ∧ alive d (dieOfPort 4) = true ∧ (portOf d 4).link = .stepping ∧
       (portOf d 4).helloNext ≤ d.now ∧ (portOf d 4).phase ≠ .pll ∧ (portOf d 4).phase ≠ .train ∧ inAttempt (portOf d 4) = true) ∧
    (let d := devL { link := .seek, phase := .idle } {}
     isSpindle d 4 = true ∧ (portOf d 4).link = .seek ∧ (portOf d 4).phase ≠ .pll ∧ inAttempt (portOf d 4) = false) ∧
    (let d := devL { link := .up, phase := .l2Train } {}
     alive d (dieOfPort 4) = true ∧ isSpindle d 4 = true ∧ (portOf d 4).link = .up ∧ (portOf d 4).phase = .l2Train) ∧
    (let d := onPort devT 8 fun q => { q with link := .down, ethPhase := .training }
     isEth d 8 = true ∧ portsRun d 8 = true ∧ (portOf d 8).ethPhase = .training ∧ (portOf d 8).link = .down ∧
       (portOf d 8).pcsOk = false) ∧
    (let d := onPort devT 8 fun q => { q with run := { q.run with rate := 1 }, link := .down, ethPhase := .training, pcsOk := true }
     (portOf d 8).pcsOk = true ∧ hasFec d 8 = false) := by decide

theorem witness_bringup_hello :
    (let d := devL { link := .seek, phase := .lock } { blockLock := true, lockAt := minute - 10 * ms }
     portOfLane d 5 = some 4 ∧ (portOf d 4).link = .seek ∧ (laneOf d 5).blockLock = true ∧ (laneOf d 5).helloAt = none ∧
       expired d (laneOf d 5).lockAt (10 * ms) = true ∧ (portOf d 4).phase = .lock ∧ helloBad hello1 = false ∧
       helloBad (hello1 ||| 0xFC00000000) = true) ∧
    portOfLane devT 0 = some 0 ∧ (portOf devT 0).link = .up ∧ rxOn devT 0 = true ∧
    (let d := onPort devT 0 fun q => { q with power := .l2 }
     (portOf d 0).link = .up ∧ rxOn d 0 = false) ∧
    (let d := devL { link := .seek, phase := .lock } { blockLock := true, lockAt := minute - 10 * ms, helloAt := some (minute - 11 * ms) }
     (∀ u, (laneOf d 5).helloAt = some u → u < (laneOf d 5).lockAt)) ∧
    (let d := devL { link := .stepping, phase := .train } {}
     (portOf d 4).phase = .train ∧ hf hello1 11 2 ≠ 2 ∧ hf (hello1 ||| 0x1000) 11 2 = 2 ∧ helloBad (hello1 ||| 0x1000) = false) := by
  decide

theorem witness_bringup_phases :
    (portOf (devL { link := .stepping, phase := .pll } {}) 4).phase = .pll ∧
    (portOf (devL { link := .stepping, phase := .train } {}) 4).phase = .train ∧
    (let d := devL { link := .stepping, phase := .qualify, attRate := 4, rateReq := 4, phaseAt := minute - 4194560 } {}
     (portOf d 4).phase = .qualify ∧ (portOf d 4).failOwed = none ∧ expired d (portOf d 4).phaseAt (windowTime (portOf d 4).attRate) = true ∧
       (portOf d 4).rateReq ≤ (portOf d 4).attRate ∧ farAll d 4 (fun c => hf c 11 2 == 1) = false) ∧
    isSpindle (devL { link := .stepping, phase := .train } {}) 4 = true ∧
    (laneOf (devL {} { coefReq := some (1, 2, 3) }) 5).coefReq = some (1, 2, 3) := by decide

theorem witness_bringup_timers :
    (let d := devL { link := .stepping, attempt := .step, phase := .pll, attRate := 1, phaseAt := minute - ms, attAt := minute - 100 * ms } {}
     phaseBudget (portOf d 4) = some ms ∧ expired d (portOf d 4).phaseAt ms = true ∧ inAttempt (portOf d 4) = true ∧
       (portOf d 4).phase ≠ .passed ∧ expired d (portOf d 4).attAt (100 * ms) = true ∧ alive d (dieOfPort 4) = true) ∧
    (let d := devL { link := .seek, phase := .lock, attAt := minute - ms } {}
     portOfLane d 5 = some 4 ∧ silentSince d 4 5 = some (minute - ms) ∧ inAttempt (portOf d 4) = true ∧
       expired d (minute - ms) ms = true) ∧
    (let d := devL { link := .down, phase := .restartWait, phaseAt := minute - 100 * ms } {}
     (portOf d 4).phase = .restartWait ∧ expired d (portOf d 4).phaseAt (100 * ms) = true ∧ portsRun d (dieOfPort 4) = true ∧
       isPort d 4 = true ∧ isSpindle d 4 = true) ∧
    (portOf devT 16).link = .quarantine ∧ (portOf { devT with now := 2 * minute } 16).quarUntil ≤ 2 * minute ∧
    historyOld { devT with now := 11 * minute } { lastTrans := some minute, holdLevel := 6 } = true := by decide

/-- Lane 0 of link 0 in a state of its own, and the link changed. -/
def devK0 (f : Port → Port) (x : Lane) : Dev := onPort { devT with lanes := [(0, x)] } 0 f

theorem witness_codewords :
    hasFec devT 8 = true ∧ rxOn devT 8 = true ∧ isSpindle devT 8 = false ∧ portOfLane devT 8 = some 8 ∧ (portOf devT 8).link ≠ .disabled ∧
    (portOf devT 8).link ≠ .test ∧ alive devT (dieOfPort 8) = true ∧
    (let d := devK0 (fun q => { q with phase := .l2Check, power := .l2 }) {}
     portOfLane d 0 = some 0 ∧ hasFec d 0 = true ∧ isSpindle d 0 = true ∧ (portOf d 0).phase = .l2Check ∧
       (portOf d 0).link = .up ∧ rxOn d 0 = true ∧ codewordFine none = false ∧ codewordFine (some 7) = false) ∧
    (let d := devK0 id { cwGood := 2 }
     (portOf d 0).phase ≠ .qualify ∧ (portOf d 0).phase ≠ .l2Check ∧ (laneOf d 0).cwLock = false ∧ (laneOf d 0).cwGood < 3) ∧
    3 ≤ (laneOf (devK0 id { cwGood := 3 }) 0).cwGood ∧
    (let d := devK0 (fun q => { q with farQuiet := 2 }) { cwLock := true }
     (laneOf d 0).cwLock = true ∧ (portOf d 0).farQuiet ≠ 0) ∧
    (let d := devK0 id { cwLock := true, cwBad := 2 }
     (laneOf d 0).cwLock = true ∧ (portOf d 0).farQuiet = 0 ∧ 2 ≤ (laneOf d 0).cwBad) := by decide

/-- 1,055 bits of the PRBS31 sequence; the last 16 of them inverted; and zeros. -/
def prbsGood : List Bool := prbsBits 1055 1
def prbsPoor : List Bool := prbsGood.take 1039 ++ (prbsGood.drop 1039).map not

theorem witness_prbs :
    (let d := devL { link := .test } { prbsLock := true }
     portOfLane d 5 = some 4 ∧ (portOf d 4).link = .test ∧ (laneOf d 5).prbsLock = true) ∧
    (laneOf (devL { link := .test } {}) 5).prbsLock = false ∧ prbsGood.length = 1055 ∧ prbsPoor.length = 1055 ∧
    (let seed := (prbsGood.take 31).foldl prbsShift 0
     seed ≠ 0 ∧ (prbsCheck seed ((prbsGood.drop 31).take 1024)).1 = 0 ∧
       16 ≤ (prbsCheck seed ((prbsPoor.drop 31).take 1024)).1) ∧
    ([] : List Bool).length < 1055 ∧ ((List.replicate 1055 false).take 31).foldl prbsShift 0 = 0 := by decide +kernel

/-- Ethernet port 8 DOWN, with auto-negotiation, and changed. -/
def devN (f : Port → Port) : Dev :=
  onPort devT 8 fun q => f { q with link := .down, ethPhase := .autoneg, conf := { q.conf with flags := 1 } }

theorem witness_ethernet_links :
    isEth (devN id) 8 = true ∧ (portOf (devN id) 8).ethPhase = .autoneg ∧ portsRun (devN id) 8 = true ∧
    [3, 2].contains (portOf (devN id) 8).conf.rate = true ∧ [3, 1].contains (portOf (devN id) 8).conf.rate = false ∧
    (portOf (devN id) 8).anFailAt = none ∧
    (let d := devN fun q => { q with anFailAt := some (minute - 10 * sec), anMiss := true }
     (portOf d 8).anFailAt.isSome = true ∧ (portOf d 8).anFailAt = some (minute - 10 * sec) ∧
       expired d (minute - 10 * sec) (10 * sec) = true ∧ (portOf d 8).anMiss = true ∧ (portOf d 8).ethPhase = .autoneg) ∧
    (let d := devN fun q => { q with ethPhase := .pcs }
     portsRun d 8 = true ∧ (portOf d 8).ethPhase = .pcs ∧ (portOf d 8).link = .down ∧ hasFec d 8 = true ∧
       (∀ i, i < (portOf d 8).conf.width → (1 : BitVec 8).getLsbD i = true)) ∧
    (let d := devN fun q => { q with ethPhase := .training, run := { q.run with rate := 1 } }
     (portOf d 8).ethPhase = .training ∧ hasFec d 8 = false) ∧
    (let d := devN fun q => { q with link := .up, ethPhase := .pcs }
     (portOf d 8).link = .up ∧ (portOf d 8).ethPhase = .pcs ∧ hasFec d 8 = true ∧
       0 < (portOf d 8).conf.width ∧ (2 : BitVec 8).getLsbD 0 = false) := by decide
/- Reception (BlocksComplete, OrderedSetsComplete, QuietStatesComplete, EthernetAndPausesComplete). -/

/-- A start header with its HCRC: VE 5, TC 2, transmit timestamp with TS_ID 9. -/
def start1 : BitVec 56 :=
  let h := 5 + 2 * 2 ^ 12 + 2 ^ 15 + 9 * 2 ^ 16
  BitVec.ofNat 56 (h + crc8 (leBytes 6 h) * 2 ^ 48)

/-- Link 0 receiving frame 3. -/
def devF (n : Nat) : Dev := { devT with
  nextId := 4
  frames := [{ id := 3, orig := 3, bytes := List.replicate n 0x55, ve := 5 }]
  ports := (0, { link0 with rx := .inFrame, rxFrame := some 3 }) :: devT.ports.drop 1
  dies := { die1 with tab := tab1, slices := { pow := .on, queue := [3] } :: List.replicate 3 { pow := .on } } :: devT.dies.drop 1 }

theorem witness_blocks :
    devT.dies.length = 8 ∧ receiving devT 0 = true ∧ hcrcOk start1 = true ∧ hcrcOk 0xFF000000000000 = false ∧
    (portOf devT 0).rx = .out ∧ (∀ f ∈ devT.frames, f.id < devT.nextId) ∧ (portOf devT 0).roleSeen = true ∧
    pipelined devT 0 = true ∧ (dieOf devT (dieOfPort 0)).slices.length = 4 ∧ sliceOfPort 0 < 4 ∧
    (sliceOf devT (dieOfPort 0) (sliceOfPort 0)).pow = .on ∧ portEntries devT (dieOfPort 0) (sliceOfPort 0) 0 < 1024 ∧
    (sliceOf devT (dieOfPort 0) (sliceOfPort 0)).queue.length < 4096 ∧
    devT.nextId ∉ (sliceOf devT (dieOfPort 0) (sliceOfPort 0)).queue ∧
    receiving (devF 8) 0 = true ∧ (portOf (devF 8) 0).rx = .inFrame ∧ (portOf (devF 8) 0).rxFrame = some 3 ∧
    (portOf devT 0).phase ≠ .qualify ∧ (portOf devT 0).phase ≠ .l2Check ∧
    (let d := onPort devT 0 fun q => { q with rate := 1, phase := .l2Check }
     receiving d 0 = true ∧ (portOf d 0).phase = .l2Check ∧ (portOf d 0).rate ≤ 1) ∧ isSpindle devT 16 = true ∧ alive devT (dieOfPort 16) = true ∧
    (portOf devT 16).link = .quarantine ∧
    (let d := devL { link := .stepping, phase := .qualify, rate := 1 } {}
     isSpindle d 4 = true ∧ alive d (dieOfPort 4) = true ∧ (portOf d 4).phase = .qualify ∧ (portOf d 4).link = .stepping ∧
       (portOf d 4).rate ≤ 1) ∧ recordInv devT := by
  refine ⟨by decide, by decide +kernel, by decide +kernel, by decide +kernel, by decide, by decide, by decide, by decide, by decide,
    by decide, by decide, by decide, by decide, by decide, by decide, by decide, by decide, by decide, by decide, by decide,
    by decide, by decide, by decide, by decide, ⟨by decide, by decide, by decide⟩⟩

theorem witness_data_blocks :
    ((devF 9720).frames.any fun f => f.id == 3) = true ∧ (frameOf (devF 9720) 3).passed3 = false ∧
    (frameOf (devF 9720) 3).stage = .ingress ∧ (frameOf (devF 9720) 3).bytes.length + 8 < 9729 ∧
    9729 ≤ (frameOf (devF 9721) 3).bytes.length + 8 := by
  have h : ∀ n, frameOf (devF n) 3 = { id := 3, orig := 3, bytes := List.replicate n 0x55, ve := 5 } := fun _ => rfl
  refine ⟨rfl, rfl, rfl, ?_, ?_⟩ <;> rw [h, List.length_replicate] <;> decide

theorem witness_ordered_sets :
    let role := BitVec.ofNat 40 (1 * 2 ^ 3 + 2 * 2 ^ 5 + 7 * 2 ^ 16)
    let pause := BitVec.ofNat 40 (0x81 + 100 * 2 ^ 8)
    let xoff := BitVec.ofNat 40 (5 + 2 ^ 12 + 100 * 2 ^ 16 + 0x81 * 2 ^ 32)
    (hf role 32 8 = 0 ∧ hf role 7 9 = 0 ∧ hf role 3 2 < 3 ∧ hf role 5 2 < 3 ∧ hf 0x18 3 2 = 3) ∧
    (hf pause 24 16 = 0 ∧ hf pause 8 16 ≠ 0 ∧ hf 0x1000000 24 16 ≠ 0) ∧
    hf xoff 13 3 = 0 ∧ (veRead (dieOf devT (dieOfPort 0)) (hf xoff 0 12)).valid = true ∧
    (veRead (dieOf devT (dieOfPort 0)) (hf xoff 0 12)).port = 0 ∧ bitOf (hf xoff 32 8) 7 = true ∧
    hf xoff 12 1 = 1 ∧ 0 < hf xoff 16 16 ∧ (veRead (dieOf devT (dieOfPort 0)) (hf 0x6 0 12)).port ≠ 0 := by decide

/-- Link 0 of a die that may park, changed. -/
def devQ (f : Port → Port) : Dev := onPort (onDie devT 0 fun x => { x with park := 1 }) 0 f

theorem witness_quiet :
    (let d := devQ fun q => { q with roleAt := minute - 65536 * 4, roleLeft := 3 }
     talking d 0 = true ∧ expired d (portOf d 0).roleAt (65536 * rowTime (portOf d 0).rate) = true ∧
       0 < (portOf d 0).roleLeft ∧ expired d (portOf d 0).roleAt us = true) ∧
    (let d := devQ fun q => { q with lastTx := minute - 10 * us, lastWait := minute - 10 * us }
     talking d 0 = true ∧ (portOf d 0).phase = .idle ∧ parkAllowed d (dieOfPort 0) = true ∧ (portOf d 0).tx = none ∧
       (portOf d 0).quiet = 0 ∧ (portOf d 0).next = none ∧ expired d (portOf d 0).lastWait (10 * us) = true ∧ schedEmpty (portOf d 0) = true ∧ expired d (portOf d 0).lastTx (10 * us) = true ∧ isPeerPort d 0 = false) ∧
    isPeerPort devH 0x5C = true ∧ devH.thermal = false ∧ devH.ha.q6 = [] ∧ devH.ha.q7 = [] ∧
    standbyPort { devS with ports := devT.ports } 0 = true ∧ talking { devS with ports := devT.ports } 0 = true ∧
    (let d := devQ fun q => { q with power := .l1, lastRx := minute - 100 * ms }
     isSpindle d 0 = true ∧ portUp d 0 = true ∧ (portOf d 0).power = .l1 ∧ (portOf d 0).l2Ask = none ∧
       standbyPort d 0 = false ∧ parkAllowed d (dieOfPort 0) = true ∧ (dieOf d (dieOfPort 0)).l2Delay ≠ 0 ∧
       expired d (portOf d 0).lastRx ((dieOf d (dieOfPort 0)).l2Delay * ms) = true) ∧
    expired devT (minute - 10 * us) (10 * us) = true ∧ expired devT (minute - 3 * ms) (3 * ms) = true ∧
    (let d := devQ fun q => { q with power := .l2, phase := .l2Check, wakeAt := some (minute - 3 * ms), l2Ask := some 0, phaseAt := minute - 820 * 80 * 4 }
     (portOf d 0).wakeAt = some (minute - 3 * ms) ∧ (portOf d 0).phase = .l2Check ∧ portUp d 0 = true ∧
       (portOf d 0).l2Ask = some 0 ∧ expired d 0 (10 * us) = true ∧
       expired d (portOf d 0).phaseAt (checkTime (portOf d 0).rate) = true) := by decide

/-- A PAUSE frame or PFC frame: opcode and the words after it. -/
def macFrame (op : Nat) (l : List Nat) : List Byte :=
  let b := padTo 60 ([0x01, 0x80, 0xC2, 0x00, 0x00, 0x01, 0x02, 0, 0, 0, 0, 8, 0x88, 0x08] ++ (op :: l).flatMap fun w =>
    [BitVec.ofNat 8 (w / 256), BitVec.ofNat 8 w])
  b ++ leBytes 4 (crc32 b)

theorem witness_ethernet :
    isEth devT 8 = true ∧ portUp devT 8 = true ∧ (portOf devT 8).rx = .out ∧ (portOf devT 8).macHold = none ∧
    (let l : List Byte := List.replicate 64 0x55
     14 ≤ l.length ∧ be l 12 2 ≠ 0x8808 ∧ l.length ≤ 9728) ∧ ([0, 1] : List Byte).length < 14 ∧
    (((portOf (onPort devT 8 fun q => { q with macHold := some ((0, []), List.replicate 13 0x55) }) 8).macHold.map (·.2)).getD [] ++
      [(0x55 : Byte)]).length = 14 ∧
    (let l := macFrame 1 [100]
     l.length ≤ 9728 ∧ be l 12 2 = 0x8808 ∧ fcsOk l = true ∧ be l 14 2 = 1 ∧
       (portOf (onPort devT 8 fun q => { q with set := { q.set with fcMode := 1 } }) 8).set.fcMode = 1 ∧ 0 < quantaTime devT 8 (be l 16 2)) ∧
    (let l := macFrame 0x0101 [0x80, 0, 0, 0, 0, 0, 0, 0, 65535]
     l.length ≤ 9728 ∧ be l 12 2 = 0x8808 ∧ fcsOk l = true ∧ be l 14 2 = 0x0101 ∧
       (portOf (onPort devT 8 fun q => { q with set := { q.set with fcMode := 2 } }) 8).set.fcMode = 2 ∧ bitOf (be l 16 2) 7 = true ∧
       0 < quantaTime devT 8 (be l (18 + 2 * 7) 2)) := by decide +kernel

theorem witness_pauses :
    (let d := onPort devT 8 fun q => { q with txPaused := 0x81, set := { q.set with fcMode := 2, hold := 2 } }
     portUp d 8 = true ∧ (portOf d 8).txPaused ≠ 0 ∧ isActive d = true ∧
       expired d (portOf d 8).txPauseAt (refreshTime d 8) = true) ∧
    (let d := onPort devT 0 fun q => { q with power := .l2, txPaused := 1, txXoff := [(5, 0), (6, 0)] }
     isSpindle d 0 = true ∧ portUp d 0 = true ∧ (portOf d 0).power = .l2 ∧ (portOf d 0).txPaused ≠ 0 ∧
       expired d (portOf d 0).txPauseAt (refreshTime d 0) = true ∧ kget? (portOf d 0).txXoff 5 = some 0 ∧
       (veOf (dieOf d (dieOfPort 0)).tab 5).valid = true ∧ (veOf (dieOf d (dieOfPort 0)).tab 5).port = 0 ∧
       expired d 0 (refreshTime d 0) = true ∧ kget? (portOf d 0).txXoff 6 = some 0 ∧
       (veOf (dieOf d (dieOfPort 0)).tab 6).port ≠ 0) ∧ (portOf devT 0).power ≠ .l2 ∧ isPeerPort devT 0 = false ∧
    (let d := onPort devT 0 fun q => { q with
       stall := [(3, minute - 200 * ms)]
       veStall := [((5, 3), minute - 200 * ms)]
       ignore := [(4, minute)] }
     kget? (portOf d 0).stall 3 = some (minute - 200 * ms) ∧ kget? (portOf d 0).veStall (5, 3) = some (minute - 200 * ms) ∧
       minute - 200 * ms + (portOf d 0).set.watchdog * ms ≤ tickSample d ∧ portUp d 0 = true ∧
       kget? (portOf d 0).ignore 4 = some minute ∧ minute ≤ tickSample d) := by decide

/- The pipeline and the fabric (PipelineTurnsComplete to TransmissionComplete). -/

/-- A whole frame of 64 bytes from link 0 for Ethernet port 8, in cell 0. -/
def frame3 : Frame :=
  { id := 3, orig := 3, bytes := List.replicate 64 0x55, len := some 64, ve := 5, src := ve5, passed3 := true, tc := 2, good := true,
    charged := some (5, 1, noLimit), paid := 1, acct := 9, stage := .admitted, chain := [.cell 0], asked := 1, dest := .ve 6,
    eg := ve6, egPort := 8, counted := true }

/-- A device with frames, whose die 0 is `x`. -/
def devX (l : List Frame) (x : Die) : Dev := { devT with
  nextId := 10
  frames := l
  dies := x :: List.replicate 7 { die1 with tab := tab1 } }

def dieX : Die := { die1 with tab := tab1, comb := { free := [(1, 196607)], held := [⟨0, 0⟩] } }

theorem witness_pipeline :
    (let d := devX [{ frame3 with stage := .ingress }] { dieX with slices := { pow := .on, queue := [3] } :: List.replicate 3 { pow := .on } }
     d.dies.length = 8 ∧ alive d 0 = true ∧ (dieOf d 0).slices.length = 4 ∧
       (nextTurn d 0 0).map (fun f => (f.id, f.stage)) = some (3, .ingress)) ∧
    (let d := devX [{ frame3 with stage := .lookup, lpmLeft := [none] }] dieX
     (nextTurn d 0 0).map (fun f => (f.id, f.stage)) = some (3, .lookup)) ∧
    (let d := onPort devT 0 fun q => { q with spoofN := 2, spoofAt := some (minute - sec) }
     dieOfPort 0 = 0 ∧ (portOf d 0).spoofN ≠ 0 ∧ mayRaise d (portOf d 0).spoofAt sec = true) := by decide +kernel

/-- A learn event, and an entry of its key. -/
def learn1 (move : Bool) (at' : Nat) : Learn := { key := 10 * 2 ^ 48 + 0x020000000001, ve := 5, tenant := 1, move := move, at' := at' }
def entry1 : MacEntry := { key := 10 * 2 ^ 48 + 0x020000000001, dest := 6, tenant := 1, act := true }

def devM (q : List Learn) (l : List (Nat × MacEntry)) : Dev := onDie devT 7 fun x => { x with learnQ := q, mac := l, ageSweep := { at' := minute } }

theorem witness_learning :
    (let d := devM [learn1 false minute] []
     alive d 7 = true ∧ (dieOf d 7).learnQ = [learn1 false minute] ∧ learns d 7 = true ∧ forcedBelow d 7 6 = false ∧
       expired d minute (20 * us) = false ∧ macLookup (dieOf d 7) (learn1 false minute).key = none ∧ macAdmits (dieOf d 7) 1 = true ∧
       (placeAt 16384 macCand (dieOf d 7).mac { key := (learn1 false minute).key, dest := 5, tenant := 1, act := true }).any
         (fun r => r.2 == []) = true) ∧
    (let d := onDie (devM [learn1 false minute] []) 7 fun x => { x with tab := {} }
     macAdmits (dieOf d 7) 1 = false ∧ learns d 7 = true ∧ forcedBelow d 7 6 = false) ∧
    (let d := devM [learn1 true minute] [(9, entry1)]
     forcedBelow d 7 6 = false ∧ macLookup (dieOf d 7) (learn1 true minute).key = some (9, entry1) ∧ (learn1 true minute).move = true ∧
       entry1.static = false ∧ entry1.dest ≠ (learn1 true minute).ve ∧ entry1.tenant = (learn1 true minute).tenant ∧
       (dieOf d 7).mac.find? (fun o => o.1 == 9) = some (9, entry1)) ∧
    (let e := { entry1 with static := true }
     macLookup (dieOf (devM [learn1 true minute] [(9, e)]) 7) (learn1 true minute).key = some (9, e)) ∧
    forcedBelow (onDie (devM [learn1 true minute] []) 7 fun x => { x with walkAt := List.replicate 6 (minute - sec) }) 7 6 = true ∧
    expired devT (minute - 20 * us) (20 * us) = true := by decide +kernel

/-- Die 7 with entry 9 in a pass of the aging sweep that began a time ago. -/
def devA (t : Nat) (e : MacEntry) : Dev := onDie (devM [] [(9, e)]) 7 fun x => { x with ageSweep := { at' := minute - t } }

/-- Entry 9 of 262,144 falls due 9 x 60 s / 262,144 after the start of the pass, and its visit is forced 100 ms later. -/
theorem witness_aging :
    (let d := devA (9 * 60 * sec / 262144) entry1
     learns d 7 = true ∧ agingDue (dieOf d 7) d.now 9 = some (dieOf d 7).ageSweep ∧ agingAny d 7 (fun u => decide (u < sweepDue (dieOf d 7).ageSweep 262144 9)) = false ∧
       d.pkg.engaged = false ∧ forcedBelow d 7 6 = false ∧ waitsBelow d 7 3 = false ∧ (dieOf d 7).mac.find? (fun o => o.1 == 9) = some (9, entry1) ∧
       entry1.static = false ∧ parBad (dieOf d 7) 3 9 = false ∧ entry1.act = true) ∧
    (let d := devA (9 * 60 * sec / 262144 + 100 * ms) { entry1 with act := false, age := 3 }
     (agingDue (dieOf d 7) d.now 9).any (fun w => expired d (sweepDue w 262144 9) (100 * ms)) = true ∧ agingForced d 7 = true) ∧
    agingDue (dieOf (devA (9 * 60 * sec / 262144 - 1) entry1) 7) minute 9 = none ∧
    (agingDue (dieOf (devA (9 * 60 * sec / 262144 + 100 * ms + 15) entry1) 7) minute 9).isSome = true ∧
    agingDue (dieOf (onDie (devA (9 * 60 * sec / 262144) entry1) 7 fun x => { x with ageSweep := { x.ageSweep with pos := 10 } }) 7) minute 9 =
      none := by decide +kernel

theorem witness_table_errors :
    (let d := onDie devT 7 fun x => { x with badPar := [(3, 9)] }
     parBad (dieOf d 7) 3 9 = true ∧ parBad (dieOf d 7) 2 9 = false) ∧
    (let d := onDie devT 7 fun x => { x with errModes := [(2, { shadow := true, period := 1, sweep := { at' := minute - sec, period := 1 } })] }
     let e := kget (dieOf d 7).errModes 2 {}
     e.shadow = true ∧ (dieOf d 7).halted.contains 1 = false ∧ 9 < shadowCount 2 ∧ d.pkg.engaged = false ∧
       forcedBelow d 7 6 = false ∧ waitsBelow d 7 4 = false ∧
       (sweepAt e.sweep e.period (shadowCount 2) 9 d.now).isSome = true ∧
       sweepAt { e.sweep with pos := 65536 } e.period (shadowCount 2) 65535 d.now = none) := by decide +kernel

/-- Punt ring 2 and tap ring 3 with a free buffer in each pool. -/
def slowRings : List (PRing × PuntRing) :=
  [(.punt 2, { enable := true, tail := [1, 1, 1] }), (.tap 3, { enable := true, tail := [1, 1, 1], tenant := 1 })]

def puntFrame : Frame := { frame3 with stage := .slow, punt := some (2, 6) }
def tapFrame : Frame :=
  { frame3 with kind := .mirror 1 false, orig := 2, stage := .slow, dest := .tap, mirSes := { tapVf := 3 }, mirTen := 1, origLen := some 64 }

theorem witness_slow_path :
    (let d := devX [puntFrame] { dieX with pRings := slowRings, puntQ := [3] }
     (frameOf d 3).id = 3 ∧ (dieOf d 0).puntQ = [3] ∧ d.frames.any (comesFirst d 0 2 (frameOf d 3)) = false ∧ 3 ∉ ([] : List Nat) ∧ (dieOf d 0).pcieUp = true ∧
       fitPool (pRingOf (dieOf d 0) (.punt ((frameOf d 3).punt.getD (0, 0)).1)) (sizeOf' (frameOf d 3)) = some 0) ∧
    (let d := devX [tapFrame] { dieX with pRings := slowRings, tapQ := [3] }
     (dieOf d 0).tapQ = [3] ∧
       fitPool (pRingOf (dieOf d 0) (.tap (frameOf d 3).mirSes.tapVf)) (sizeOf' (frameOf d 3)) = some 0 ∧
       (pRingOf (dieOf d 0) (.tap (frameOf d 3).mirSes.tapVf)).tenant = (frameOf d 3).mirTen) ∧
    (let d := devX [{ frame3 with toKeeper := true, stage := .slow }] { dieX with keeperQ := [3] }
     (dieOf d 0).keeperQ = [3] ∧ (dieOf d 0).keeper = .running ∧
       clockFrame d (portOf d (frameOf d 3).port).set.bcDomain 3 = false) ∧
    (∀ j ∈ (dieOf devT 0).keeperQ, clockFrame devT (portOf devT (frameOf devT j).port).set.bcDomain j = true) ∧
    ({} : Die).halted.contains 2 = false ∧ ({ halted := [2] } : Die).halted.contains 2 = true := by decide +kernel

/-- VOQs towards port 8 and towards the replication engine of die 7. -/
def voq8 : VoqKey := ⟨0, false, 8, 2⟩
def voqM : VoqKey := ⟨0, true, 7, 2⟩

def devV (v : Voq) : Dev := { devX [frame3] dieX with voqs := [(voq8, v), (voqM, v)] }

theorem witness_voqs :
    (let d := devV { head := [{ fid := 3 }] }
     8 < 1024 ∧ portUp d 8 = true ∧ (portOf d 8).creditStop = false ∧
       (creditOrder false 8 (portOf d 8).credit7 (portOf d 8).creditAt).find? (grantable (askAll d false 8)) = some voq8 ∧
       alive d 7 = true ∧
       (creditOrder true 7 (dieOf d 7).credit7 (dieOf d 7).creditAt).find? (grantable (askAll d true 7)) = some voqM ∧
       (voqOf d voq8).head = [{ fid := 3 }] ∧ (voqOf d voq8).spill = false ∧ alive d voq8.die = true ∧
       alive d (voqDie voq8) = true ∧ (dieOf d voq8.die).draining.all (fun e => e.1 != voqDie voq8) = true ∧
       streaming d voq8 (frameOf d 3) = false ∧ wholeOk (frameOf d 3) = true ∧ (voqOf d voq8).balance < cellCount (sizeOf' (frameOf d 3))) ∧
    (let d := devV { head := [{ fid := 3 }], balance := 16 }
     cellCount (sizeOf' (frameOf d 3)) ≤ (voqOf d voq8).balance) ∧
    (let d := devV { balance := 16, room := [5] }
     voqEmpty (voqOf d voq8) = true ∧ expired d (voqOf d voq8).emptyAt (2 * us) = true ∧ (voqOf d voq8).balance ≠ 0) ∧
    (let d := onDie (devV { head := [{ fid := 3 }] }) 0 fun x => { x with wreds := [(0, { weight := 2 })] }
     (dieOf d 0).wredAt < lastAction d ∧ (d.voqs.map (·.1)).Nodup ∧ voq8 ∈ voqsOf d 0 ∧ (wredOf d voq8).weight ≠ 0) := by
  decide +kernel

/-- Frame 3 waits behind a frame that cuts through to port 136 on die 1, over the path of its own. -/
def voq136 : VoqKey := ⟨0, false, 136, 2⟩

theorem witness_streaming :
    let d := { devX [frame3, { frame3 with id := 5, len := none, good := false }] dieX with
      voqs := [(voq136, { head := [{ fid := 3 }], balance := 16 })]
      copies := [{ id := 4, fid := 5, die := 1, port := 136, tc := 2, cut := true, ended := false, handed := false }] }
    streaming d voq136 (frameOf d 3) = true ∧ (voqOf d voq136).spill = false ∧ alive d voq136.die = true ∧
      alive d (voqDie voq136) = true ∧ (dieOf d voq136.die).draining.all (fun e => e.1 != voqDie voq136) = true := by
  decide +kernel

/-- A flit of frame 3 from die 0 to die 1, and die 0 with channel 0 changed. -/
def flit3 : Flit := { src := 0, dst := 1, tc := 2, parts := [{ fid := 3, secs := 2, start := true, fin := true }] }
def devJ (f : Chan → Chan) : Dev := devX [frame3] { dieX with chans := lmod dieX.chans 0 f }

theorem witness_bridges :
    (let d := devJ id
     (∀ x ∈ d.dies, x.chans.length = 7) ∧ alive d 1 = true ∧ farDie d.part 1 6 = some 0 ∧ alive d 0 = true ∧
       farChan d.part 6 = 0 ∧ (chanOf d 0 0).st = .up ∧ (chanOf d 1 6).st = .up ∧ (chanOf d 0 0).tries < 15 ∧
       ((chanOf d 0 0).ctl.filter fun u => !expired d u (10 * us)).length < 156 ∧
       (chanOf (feed d 0 1) 0 0).replay = [] ∧
       ((List.range 8).all fun x => (List.range 8).all fun y => !alive d x || !alive d y || decide (y ≤ x) || !bridgeFailed d x y) = true) ∧
    (let d := devJ fun c => { c with tries := 15, ctl := List.replicate 156 (minute - 10 * us + 1) }
     15 ≤ (chanOf d 0 0).tries ∧ 156 ≤ ((chanOf d 0 0).ctl.filter fun u => !expired d u (10 * us)).length) ∧
    (let d := devJ fun c => { c with replay := [{ flit3 with dst := 2 }] }
     (chanOf (feed d 0 1) 0 0).replay = [{ flit3 with dst := 2 }] ∧ (dieOf d 1).rxHold = [] ∧
       counterOf d 1 (slotDie cntBusReplay) < two64) ∧
    (let d := devX [frame3] { dieX with relays := [(1, [flit3])] }
     farDie d.part 0 0 = some 1 ∧ kget (dieOf d 0).relays 1 [] = [flit3] ∧ dealChan d 0 1 = some 0 ∧
       chanTakes (chanOf d 0 0) = true ∧ (kget (dieOf d 0).outq 1 []).any (wireable d 1) = false) ∧
    (let d := devJ fun c => { c with st := .retraining, lastOk := minute - 10 * ms }
     (chanOf d 0 0).st = .retraining ∧ expired d (chanOf d 0 0).lastOk (10 * ms) = true ∧
       ∀ k ∈ bridgeChans d 0 1, k ≠ 0 → (chanOf d 0 k).st = .failed) ∧
    (let d := { devT with part := .km8200, dies := List.replicate 8 die1 }
     farDie d.part 0 3 = some 1 ∧ alive d 1 = true ∧ (∃ k ∈ bridgeChans d 0 1, k ≠ 3 ∧ (chanOf d 0 k).st ≠ .failed)) := by
  decide +kernel

/-- A VOQ in SPILL whose TAIL is one frame of 16 cells. -/
def frameS : Frame := { frame3 with
  bytes := List.replicate 4000 0x55
  len := some 4000
  chain := (List.range 16).map .cell
  asked := 16
  paid := 16 }

def devG (v : Voq) : Dev := { devX [frameS] { dieX with
  tab := { tab1 with bufs := [(0, { spillEn := true })] }
  comb := { free := [(16, 196592)], held := (List.range 16).map (⟨·, 0⟩) } } with voqs := [(voq8, v)] }

theorem witness_comb :
    (let d := onDie (devG {}) 0 fun x => { x with comb := { x.comb with audit := true } }
     (combOf d 0).audit = true ∧ ((combOf d 0).held.map (·.cell)).Nodup) ∧
    (let d := devG { spill := true, tail := [{ fid := 3 }] }
     storeOn d 0 = true ∧ (dieOf d 0).writeAt = 0 ∧ expired d (minute - 256) 256 = true ∧ (rotateAfter (voqsOf d 0) fun q => some q == (dieOf d 0).writeRot).find? (pageReady d) = some voq8 ∧
       lowestPage (dieOf d 0) = some 0 ∧ (packPage voq8 ((voqOf d voq8).tail.length + 1) (countStart d voq8)).1 = true) := by decide +kernel

def page0 (p : PageSt) : Page := { idx := 0, st := p, cells := (List.range 16).map (3, ·), since := minute - 256 }

theorem witness_store :
    (let d := devG { spill := true, mid := [{ fid := 3 }], pages := [page0 .writing] }
     firstPage d 0 .writing = some (voq8, page0 .writing)) ∧
    (let d := devG { spill := true, mid := [{ fid := 3 }], pages := [page0 .reading] }
     firstPage d 0 .reading = some (voq8, page0 .reading) ∧ (page0 .reading).ue = none) ∧
    (let d := onDie (devG { spill := true, mid := [{ fid := 3 }], pages := [page0 .stored] }) 0 fun x =>
       { x with comb := { x.comb with readWait := some (voq8, 0, List.range 16) }, readAt := minute - 256 }
     storeOn d 0 = true ∧ (combOf d 0).readWait = some (voq8, 0, List.range 16) ∧ 16 ≤ (List.range 16).length ∧
       expired d (dieOf d 0).readAt 256 = true) := by decide +kernel

/-- Copy 4 of frame 3 on port 8. -/
def copy4 : Copy := { id := 4, fid := 3, die := 0, port := 8, ve := some 6, eg := ve6, tc := 2, own := true, ncells := 1 }

def devW (q : Port) (c : Copy) : Dev := { devX [frame3] dieX with
  ports := (8, { q with conf := eth8.conf, link := .up, rate := 2, power := .l0 }) :: devT.ports
  copies := [c] }

/-- Copy 4 waits in group 0. -/
def waits4 : Port := { set := { groups := [(0, { queues := [[], [], [4], [], [], [], [], []] })] } }

theorem witness_transmission :
    (let d := devW waits4 copy4
     canTransmit d 8 = true ∧ portShaperOpen d 8 = true ∧ windowOver d = false ∧ (portOf d 8).next = none ∧ (portOf d 8).tx = none ∧
       ((choose (markHolds (settleHold (reapBad 8 d.copies.length d) 8) 8) 8 false).map (·.1.copy)) = some 4) ∧
    (let d := { devW { waits4 with tx := some { copy := 5, start := 0, point := 0, ns := [], head := 0 } } copy4 with
       copies := [copy4, { copy4 with id := 5, fed := true }] }
     (portOf d 8).next = none ∧ (copyOf d 5).fed = true ∧
       ((choose (markHolds (settleHold (reapBad 8 d.copies.length d) 8) 8) 8 false).map (·.1.copy)) = some 4) ∧
    (let d := devW { next := some (4, 84) } copy4
     canTransmit d 8 = true ∧ (portOf d 8).next = some (4, 84) ∧ (portOf d 8).tx = none ∧ (copyOf d 4).bad = none) ∧
    windowOver { devW waits4 copy4 with pkg := { window := 59999 } } = true ∧
    (let d := devW { tx := some { copy := 4, start := 0, point := 0, ns := [], head := 0 } } copy4
     (portOf d 8).tx.isSome = true ∧ (copyOf d 4).bad = none ∧
       readyToEnd (copyOf d 4) (frameOf d (copyOf d 4).fid) = true ∧
       expired d 0 (wireTime d 8 (wireBytes (frameOf d (copyOf d 4).fid))) = true) ∧
    (copyOf (devW {} { copy4 with bad := some (0, 5) }) 4).bad = some (0, 5) ∧
    readyToEnd { copy4 with ended := false } frame3 = false ∧
    (let d := devW waits4 { copy4 with holdAt := some (minute - 10 * ms) }
     alive d (dieOfPort 8) = true ∧ (portOf d 8).holdTick < lastAction d ∧ 4 ∈ waitingIn d 8 2 ∧ (copyOf d 4).id = 4 ∧
       (copyOf d 4).port = 8 ∧ (copyOf d 4).holdAt = some (minute - 10 * ms) ∧ minute - 10 * ms + 10 * ms ≤ tickSample d) ∧
    (let m : McChain := { die := 0, fid := 3, cells := [], left := [], open' := 0, ecn := false, begun := false }
     let d := devX [{ frame3 with dest := .group 20 }] { dieX with mcIn := [m] }
     (dieOf d 0).mcIn.find? (fun m => m.arrived && !m.begun && !m.slow) = some m ∧ (frameOf d m.fid).id = m.fid) ∧
    (dieOf devT 0).residueAt < lastAction devT := by decide +kernel

/- The rules of the whole machine (StepRunsFront to SignalDetectDebounce). -/

theorem witness_step : step (st devT) = .next (st { devT with now := minute + 16 }) := rfl

theorem witness_step_front (i : Instr) :
    step { st devT with pending := [i, .pwrOkFall] } = exec i { st devT with pending := [.pwrOkFall] } := rfl

theorem witness_invariants :
    aonInv State.reset.aon ∧ aonInv { ({} : Aon) with lock := true, rollback := 64, sel := 15, fails := 65535 } ∧
    shapeInv State.reset.dev ∧ recordInv State.reset.dev := by
  refine ⟨⟨by decide, by decide, rfl, by decide, by decide, by decide, rfl⟩,
    ⟨by decide, by decide, rfl, by decide, by decide, by decide, rfl⟩, ⟨by decide, by decide, by decide, by decide⟩, ?_⟩
  exact ⟨by decide, by decide, by decide⟩

theorem witness_records :
    (∀ f ∈ (devV {}).frames, f.id < (devV {}).nextId ∧ f.orig < (devV {}).nextId) ∧ ((devV {}).voqs.map (·.1)).Nodup ∧
    (∀ x ∈ (devV {}).dies, (∀ y ∈ x.slices, ∀ i ∈ y.queue, i < (devV {}).nextId) ∧ (x.comb.held.map (·.cell)).Nodup) := by
  decide

theorem witness_lock :
    regsUp devT 7 = true ∧ bitOf 1 0 = true ∧ ({} : Aon).lock = false ∧ devT.pwrOk = true ∧
    (∃ t, exec .pwrOkFall { aon := { lock := true }, dev := devT } = .next t ∧ t.aon.lock = false) := by
  refine ⟨by decide, by decide, rfl, rfl, _, rfl, by decide⟩

theorem witness_kept :
    (∃ t, exec (.lockWrite 0 1) (st devT) = .next t) ∧ ({ lock := true } : Aon).lock = true ∧ ¬isReset (.lockWrite 0 1) ∧
    ({ opKey := some 5 } : Aon).opKey.isSome = true ∧ ({ dbgDisable := true } : Aon).dbgDisable = true := by
  refine ⟨⟨_, rfl⟩, rfl, ?_, rfl, rfl⟩
  rintro (h | h) <;> cases h

/-- TEN_VE_GET with a VE out of range, and with MODE reserved bits; MIR_SET on a standby. -/
theorem witness_refused :
    (let c := cmd [(0, 4096)]
     canStart devT c = true ∧ (refusal devT c (specTenVeGet devT c.params)).map (·.status) = some stBadArg) ∧
    (let c := { cmd [(0, 1)] with die := 1 }
     let d := { devT with dies := List.replicate 8 { die1 with tab := tab1, rings := ring1 :: List.replicate 7 {} } }
     canStart d c = true ∧ c.die ≠ 0 ∧ (specTenGet c.params).any = true) ∧
    (let c := cmd [(0, 5), (2, 1)]
     let d := { devS with dies := devT.dies }
     canStart d c = true ∧ isActive d = false ∧ (specTenVeSet d c.params).kind = .w ∧
       (refusal d c (specTenVeSet d c.params)).map (·.status) = some stNotActive) := by decide +kernel

theorem witness_completion :
    (let p := mkPend devT (cmd []) 0x0001 0 {}
     devT.dies.length = 8 ∧ Memory.wf devT.mem = true ∧ cplReady devT p = true ∧ (ringOf devT 0 0).enable = true ∧
       alive devT 0 = true ∧ (dieOf devT 0).rings.length = 8) ∧
    (let d := onDie devT 0 fun x => { x with mbHalt := true }
     cplReady d (mkPend d (cmd []) 0x0001 0 {}) = false) := by decide +kernel

theorem witness_reads : (∃ t, exec (.sysNop (cmd [])) (st devT) = .next t) ∧ Instr.sysNop (cmd []) ∈ readCommands (cmd []) ∧
    bitOf (pf (par []) 2 1) 0 = false := ⟨⟨_, rfl⟩, List.mem_cons_self, by decide⟩

theorem witness_frames (c : Cmd) :
    Instr.polSet c ∈ dieCommands c [] ∧ Instr.tblBdSet c ∈ tableCommands c [] ∧ bitOf (pf (par [(0, 1)]) 0 1) 7 = false ∧
    (pf (par [(0, 8)]) 0 2 = 8 ∧ (0 : Nat) ≠ 8) ∧ pf (par [(4, 16), (8, 2)]) 4 4 + pf (par [(4, 16), (8, 2)]) 8 4 ≤ 18 := by
  refine ⟨?_, List.mem_cons_self, by decide, by decide, by decide⟩
  simp [dieCommands]

theorem witness_memory_and_comb :
    Memory.wf devT.mem = true ∧ 0 < devT.dies.length ∧ (drawCell devT 0 0).1 = some 0 ∧ (drawCell (devV {}) 0 3).1 = some 1 ∧
    isHeld (combOf (devV {}) 0) 0 = true ∧ isHeld (combOf (devV {}) 0) 1 = false := by decide +kernel

/-- Die 0 with a full share of the ingress queue. -/
def devO (k p : Nat) : Dev := { devX [{ frame3 with stage := .ingress, port := p }] { dieX with
  slices := { pow := .on, queue := List.replicate k 3 } :: List.replicate 3 { pow := .on } } with nextId := 10 }

theorem witness_overrun :
    (portOf (devO 1024 0) 0).rx = .out ∧ pipelined (devO 1024 0) 0 = true ∧ portEntries (devO 1024 0) 0 0 0 = 1024 ∧
    receiving (devO 1024 0) 0 = true ∧ (portOf (devO 1024 0) 0).roleSeen = true ∧ isEth (devO 4096 0) 8 = true ∧
    portUp (devO 4096 0) 8 = true ∧ (sliceOf (devO 4096 0) 0 0).queue.length = 4096 := by
  have h : ∀ k, sliceOf (devO k 0) 0 0 = { pow := .on, queue := List.replicate k 3 } := fun _ => rfl
  refine ⟨rfl, rfl, ?_, rfl, rfl, rfl, rfl, ?_⟩
  · unfold portEntries
    rw [h, List.filter_eq_self.mpr, List.length_replicate]
    intro i hi
    rw [List.eq_of_mem_replicate hi]
    rfl
  · rw [h, List.length_replicate]

theorem witness_overrun_records : recordInv (devO 4096 0) := by
  refine ⟨by decide, by decide, ?_⟩
  intro x hx
  rcases List.mem_cons.mp hx with rfl | hx
  · refine ⟨?_, by decide⟩
    intro y hy i hi
    rcases List.mem_cons.mp hy with rfl | hy
    · rw [List.eq_of_mem_replicate hi]
      decide
    · rw [List.eq_of_mem_replicate hy] at hi
      exact absurd hi List.not_mem_nil
  · rw [List.eq_of_mem_replicate hx]
    decide

theorem witness_debounce :
    (let d := devL { link := .up, power := .l0 } { sd := true, sdRaw := true }
     alive d (dieOfPort 5) = true ∧ (laneOf d 5).sdRaw = (laneOf d 5).sd) ∧
    (let d := devL { link := .up, power := .l0 } { sd := true, sdSince := some minute }
     (laneOf d 5).sdSince = some minute ∧ (laneOf d 5).sdRaw ≠ (laneOf d 5).sd ∧ expired d minute (10 * us) = false ∧
       alive d (dieOfPort ((portOfLane d 5).getD 5)) = true ∧ expired d (minute - 10 * us) (10 * us) = true) := by decide

/- The spec's worked examples. -/

/-- The header of the worked example of 05_parser_and_classifier, followed by zeros: the frame is 1,000 bytes long. -/
def vxlanFrame : List Byte :=
  [2, 0, 0, 0, 0, 1, 2, 0, 0, 0, 0, 2, 0x88, 0xA8, 0, 10, 0x81, 0, 0, 20, 0x08, 0,
   0x45, 0, 0x03, 0xCE, 0, 0, 0, 0, 0x40, 0x11, 0x63, 0x1D, 10, 0, 0, 1, 10, 0, 0, 2,
   0xC0, 0, 0x12, 0xB5, 0x03, 0xBA, 0, 0, 8, 0, 0, 0, 0, 0x1F, 0x40, 0,
   2, 0, 0, 0, 0, 3, 2, 0, 0, 0, 0, 4, 0x81, 0, 0, 30, 0x86, 0xDD,
   0x60, 0, 0, 0, 0x03, 0x70, 0, 64] ++ List.replicate 32 0 ++ [43, 0, 0, 0, 0, 0, 0, 0, 60, 2] ++ List.replicate 22 0
   ++ [6, 0, 0, 0, 0, 0, 0, 0] ++ List.replicate 100 0

/-- Worked example of 05_parser_and_classifier: KTYPE 1, PFLAGS 0x8320, VNI 0x001F40, PARSE_DEPTH, and no failure of a length check. -/
theorem test_parse_example :
    let r := (parse {} vxlanFrame none 0 0 {} fun _ => 0).1
    r.parsed.ktype = 1 ∧ r.parsed.pflags = 0x8320 ∧ r.parsed.key / 2 ^ 144 % 2 ^ 24 = 0x001F40 ∧ r.depth = true ∧
      r.conflict = false ∧ r.csum = false := by decide +kernel

/-- Check value of 06_forwarding_tables (R248): HASH of "123456789" with SEED 0xFFFFFFFF. -/
theorem test_hash_example :
    hashSeed 0xFFFFFFFF [0x31, 0x32, 0x33, 0x34, 0x35, 0x36, 0x37, 0x38, 0x39] = 0xE3069283 := by decide +kernel

/-- Worked example of 03_spindle_link (R108): the CRC-8 of the start header is 0x24. -/
theorem test_start_header_example :
    crc8 [0xA7, 0xD2, 0x34, 0x12, 0, 0] = 0x24 ∧ hcrcOk 0x2400001234D2A7 = true ∧
    bitsOf 0x2400001234D2A7 0 12 = 0x2A7 ∧ bitsOf 0x2400001234D2A7 12 3 = 5 := by decide +kernel

/-- Worked example of 11_scheduling_power_energy (R469): the shares of window 5,002 on d2, d5 and each other die. -/
theorem test_share_example :
    shareOf 2400000000 (4, 5) 1500000000 2000000000 8 = 1365000000 ∧
    shareOf 2400000000 (4, 5) 500000000 2000000000 8 = 465000000 ∧
    shareOf 2400000000 (4, 5) 0 2000000000 8 = 15000000 := by decide

/-- Worked example of 08_comb_and_deep_store (R356): the thresholds of ALPHA 5 and ALPHA_T 7. -/
theorem test_threshold_example :
    alphaCells 5 50000 0 = 25000 ∧ alphaCells 5 50000 1 = 12500 ∧ alphaCells 5 50000 2 = 6250 ∧
    alphaCells 7 50000 0 = 100000 ∧ passes 5 256 20000 0 14000 = false := by decide

/-- Worked example of 10_congestion_and_multicast (R421): one step of AVG. -/
theorem test_avg_example : avgStep (3200 * 256) 4000 3 = 3300 * 256 := by decide

/-- Policer 700 of the worked example of 07_policing_mirroring_counters, with what its buckets hold at a tick. -/
def pol700 (tc tp tick : Nat) : Policer :=
  { redDrop := true, cir := 1000000, pir := 2000000, cbs := 16000, pbs := 32000,
    tc := { tokens := (tc * 6250000 : Nat), last := tick }, t2 := { tokens := (tp * 6250000 : Nat), last := tick } }

/-- Worked example of 07_policing_mirroring_counters: frame 9 is green, frame 10 yellow and frame 21 red. -/
theorem test_policer_example :
    (polJudge (pol700 2635 18770 0) 1500).1 = 0 ∧ (polJudge (pol700 1150 17300 0) 1500).1 = 1 ∧
    (polJudge (pol700 1150 1130 0) 1500).1 = 2 := by decide

/-- The state of the worked example of 14_register_interface at a time after cycle a. -/
def guardAt (a : Aon) (t : Nat) : State := { aon := a, dev := { devT with now := minute + t } }

/-- Worked example of 14_register_interface (R596, R597), steps 1 to 3: the window ends at cycle a + 64 and a write that lands there fails. -/
theorem test_guard_window :
    guardOver (guardAt { sel := 1, armed := some (1, 1, minute) } (64 * 500 - 1)) = false ∧
    guardOver (guardAt { sel := 1, armed := some (1, 1, minute) } (64 * 500)) = true ∧
    guardWrites (guardAt { sel := 1, armed := some (1, 1, minute) } (64 * 500)) 0xFFFFFFFE = none := by decide

/-- Worked example of 14_register_interface (R596, R597), step 5: 23 cycles after arming the write takes effect. -/
theorem test_guard_example :
    guardWrites (guardAt { sel := 1, armed := some (1, 1, minute) } (23 * 500)) 0xFFFFFFFE = some (1, 1) := by decide

/-- Worked example of 06_forwarding_tables (R276, R277): six routes of VRF 12, of which 10.0.0.0/8 is stored at 16 and
10.20.36.0/22 at 24. -/
def exampleRoutes : List (RouteKey × NextHop) :=
  [(8, 0x0A000000), (16, 0x0A140000), (22, 0x0A142400), (24, 0x0A142500), (27, 0x0A142540), (32, 0x0A142509)].map fun e =>
    (⟨12, 4, e.1, e.2⟩, {})

theorem test_route_compiler :
    mayExpand exampleRoutes ⟨12, 4, 8, 0x0A000000⟩ 16 = true ∧ mayExpand exampleRoutes ⟨12, 4, 22, 0x0A142400⟩ 24 = true ∧
    mayExpand exampleRoutes ⟨12, 4, 8, 0x0A000000⟩ 17 = false ∧
    (storedKeys exampleRoutes ⟨12, 4, 8, 0x0A000000⟩ 16).length = 255 ∧
    (storedKeys exampleRoutes ⟨12, 4, 22, 0x0A142400⟩ 24).map (·.prefixN) = [0x0A142400, 0x0A142600, 0x0A142700] ∧
    (compiled exampleRoutes [(⟨12, 4, 8, 0x0A000000⟩, 16), (⟨12, 4, 22, 0x0A142400⟩, 24)]).length = 262 := by decide +kernel

/-- Worked example of 03_spindle_link (R101, R108, R98): the START block of the 1,000-byte frame, its 127 blocks, and
the lanes of its first and last block on a 4-lane port. -/
theorem test_wire_start :
    ((startBlock (startHeader 0x1234D2A7)).bytes.map (·.toNat)) = [0x33, 0xA7, 0xD2, 0x34, 0x12, 0, 0, 0x24] ∧
    (frameBlocks 0 (List.replicate 1000 0)).length = 127 ∧ (frameBlocks 0 (List.replicate 1000 0)).getLast? = some ⟨1, 0x55⟩ ∧
    (rowLane 4 3).2 = 3 ∧ (rowLane 4 (3 + 126)).2 = 1 := by decide +kernel

/-- R101: the blocks of an 11-byte tail are a data block and T3; an unknown type and a bad sync header are bad blocks. -/
theorem test_wire_blocks :
    (frameBlocks 5 [1, 2, 3, 4, 5, 6, 7, 8, 9, 10, 11]).map (blockCommand 8 9) =
      [some (.rxStartBlock 8 5), some (.rxDataBlock 8 0x0807060504030201), some (.rxTerminateBlock 8 3 0x0B0A09)] ∧
    blockCommand 8 9 idleBlock = some (.rxIdleBlock 8) ∧ blockCommand 8 9 (stompBlock 4) = some (.rxStompBlock 8 4) ∧
    blockCommand 8 9 ⟨1, 0x34⟩ = some (.rxBadBlock 8 9 false false) ∧
    blockCommand 8 9 ⟨3, 0x1E⟩ = some (.rxBadBlock 8 9 true false) := by decide +kernel

/-- R125, R127, R128: a ROLE row with each lane's index, one with a wrong index, a HELLO row and an unassigned code. -/
theorem test_wire_rows :
    rowCommands 8 [8, 9] [orderedBlock 2 0x10, orderedBlock 2 0x11] = [.rxRole 8 0x10] ∧
    rowCommands 8 [8, 9] [orderedBlock 2 0x10, orderedBlock 2 0x10] = [.rxOsBad 8] ∧
    rowCommands 8 [9, 8] [orderedBlock 1 0x08, orderedBlock 1 0x09] = [.rxHello 9 0x08 true, .rxHello 8 0x09 true] ∧
    rowCommands 8 [8, 9] [orderedBlock 1 0x08, orderedBlock 2 0x11] = [.rxHello 8 0x08 true, .rxOsBad 8] ∧
    rowCommands 8 [8, 9] [orderedBlock 9 0, orderedBlock 7 1] = [.rxOsUnknown 8, .rxOsUnknown 8] := by decide +kernel

/-- R120: a message followed by its parity has every root of g(x). -/
theorem test_wire_parity :
    (List.range 16).all fun i => ([5, 1023, 0, 700] ++ rsParity [5, 1023, 0, 700]).foldl
      (fun a c => gfMul a (gfAlpha i) ^^^ c) 0 == 0 := by decide +kernel

/-- R97: the first scrambled bits of a lane whose register holds one bit, at places 38 and 57 in turn. -/
theorem test_wire_scrambler :
    scramble (1 <<< 38) [false, true] = [true, true] ∧ scramble (1 <<< 57) [true, true] = [false, true] := by decide +kernel

/-- R712: lands of a die by function (VDD_CORE, VDD_SRD, VDD_SRDH, VDDQ_HBM, VDD_IO, VDD_AON, reserved, VSS), on d0 and on
another die. -/
def landCounts (n : Nat) : List Nat :=
  let l := regionLands n
  ([Rail.core, .srd, .srdh, .hbm, .io, .aon].map fun r => l.count (.supply r)) ++
    [l.count .reserved, l.countP fun x => x == .vss || match x with
      | .serial _ .vss | .pcie _ .vss => true
      | _ => false]

theorem test_land_counts :
    landCounts 0 = [400, 120, 40, 64, 8, 8, 8, 799] ∧ landCounts 1 = [400, 120, 40, 64, 8, 0, 8, 828] ∧
    799 + 828 = 1627 ∧ 799 + 3 * 828 = 3283 ∧ 799 + 7 * 828 = 6595 := by decide +kernel

/-- Worked example of 18_electrical_and_package: L-041-117 and L-014-125 of a KM-8800, PWR_OK on every part. -/
theorem test_land_example :
    landOf .km8800 41 117 = some (6, .signal .perstN) ∧ landOf .km8800 14 125 = some (6, .serial 50 .rxP) ∧
    landOf .km8400 41 117 = none ∧
    [Part.km8200, .km8400, .km8800].map (fun p => landOf p 49 21) = List.replicate 3 (some (0, .signal .pwrOk)) := by decide +kernel

/-- Worked example of 00_scope (R6): d5.p40 is port 680. -/
theorem test_port_example : dieOfPort 680 = 5 ∧ localOf 680 = 40 ∧ sliceOfPort 680 = 1 := by decide

/- No row of the table gives bits. -/

theorem test_no_words (nbits w : Nat) (s : State) :
    decodeTableWord nbits w = none ∧ s.withFetchWord nbits w = s := ⟨rfl, rfl⟩

/- Well-formedness: what each check refuses. -/

theorem test_wf_refuses_ring : (Instr.sysNop { cmd [] with ring := 8 }).wf = false := by decide
theorem test_wf_refuses_die : (Instr.combAudit 8).wf = false := by decide
theorem test_wf_refuses_port : (Instr.pllLock 96).wf = false ∧ (Instr.pllLock 1024).wf = false := by decide
theorem test_wf_refuses_function : (Instr.registerWrite 0 (.vf 64) 0 0 15).wf = false := by decide
theorem test_wf_refuses_punt_ring :
    (Instr.cplConsWrite 0 (.punt 16) 0).wf = false ∧ (Instr.cplConsWrite 0 (.tap 64) 0).wf = false := by decide
theorem test_wf_refuses_voq :
    (Instr.voqIdleReturn ⟨0, true, 8, 0⟩).wf = false ∧ (Instr.voqIdleReturn ⟨0, false, 96, 0⟩).wf = false ∧
    (Instr.voqIdleReturn ⟨0, false, 8, 8⟩).wf = false := by decide
theorem test_wf_refuses_grant : (Instr.creditGrant 1032).wf = false ∧ (Instr.creditGrant 1031).wf = true := by decide
theorem test_wf_refuses_entry : (Instr.peerRxJournal [] [.dieLost 8]).wf = false := by decide
theorem test_wf_refuses_record : (Instr.peerRxSnapshot [] ⟨[.lease 65536 false], true⟩).wf = false := by decide
theorem test_wf_refuses_counter : (Instr.cntRead (cmd []) (some ⟨1048576, .none, .none, 0⟩)).wf = false := by decide
theorem test_wf_refuses_ve : (Instr.pauseWatchdogExpiry 0 0 (some 4096)).wf = false := by decide
theorem test_wf_refuses_dies : (Instr.pwrOkRise [3, 8] false).wf = false := by decide
theorem test_wf_refuses_small : (Instr.agingVisit 0 262144).wf = false ∧ (Instr.keeperTrap 0 5).wf = false := by decide
theorem test_wf_refuses_parity : (Instr.headerPipelineTurn 0 ⟨0, [(5, 0)]⟩).wf = false := by decide
theorem test_wf_refuses_partner : (Instr.ethAnExchange 8 [256]).wf = false := by decide
theorem test_wf_refuses_timestamp : (Instr.boundaryClockMessage 0 ⟨0, 0, none⟩ ⟨8, [], some 65536⟩).wf = false := by decide
theorem test_wf_accepts :
    (Instr.sysNop (cmd [])).wf = true ∧ (Instr.pllLock 1023).wf = false ∧ (Instr.pllLock 991).wf = true ∧
    (Instr.peerRxJournal [] [.dieLost 7]).wf = true := by decide
end Sys2Proof.Tests
end

section
/-! PROOFS. O59 fails. Nothing in the statement keeps the class of a frame below 8. A frame of class 39 that is dropped as
DR_INGRESS_OVERRUN and then ends well is counted as received too (R734), and CNT_RX_FRAMES of class 39 is the slot of
CNT_DROP_FRAMES for DR_INGRESS_OVERRUN (R319): the slot rises by 2. The proof follows one such frame on a device that holds
no other. -/

namespace Sys2Proof.Machine

open Sys2Proof.Claims

/-- ETH_RX_FRAME answers the next state, with the device as `ethFrame` leaves it. -/
theorem exec_ethRxFrame (p : Nat) (l : List Byte) (e : Option EthErr) (s : State) :
    exec (.ethRxFrame p l e) s = .next { s with dev := ethFrame s.dev p l e } := rfl

/- The FCS of a frame (R104). -/

theorem crcShift_lt {poly r : Nat} (hpoly : poly < 2 ^ 32) (hr : r < 2 ^ 32) : crcShift poly r < 2 ^ 32 := by
  have hhalf : r / 2 < 2 ^ 32 := by omega
  unfold crcShift
  split
  · exact Nat.xor_lt_two_pow hhalf hpoly
  · exact hhalf

theorem crcByte_lt {poly r : Nat} (hpoly : poly < 2 ^ 32) (hr : r < 2 ^ 32) (b : Byte) : crcByte poly r b < 2 ^ 32 := by
  have hbyte : b.toNat < 2 ^ 32 := by have := b.isLt; omega
  unfold crcByte
  repeat apply crcShift_lt hpoly
  exact Nat.xor_lt_two_pow hr hbyte

theorem crc32_lt (l : List Byte) : crc32 l < 2 ^ 32 :=
  Nat.xor_lt_two_pow (List.foldlRecOn l _ (motive := (· < 2 ^ 32)) (by decide) fun _ hr b _ => crcByte_lt (by decide) hr b)
    (by decide)

theorem ofLe_leBytes (n v : Nat) : ofLe (leBytes n v) = v % 256 ^ n := by
  induction n generalizing v with
  | zero => simp [leBytes, ofLe, Nat.mod_one]
  | succ n ih =>
    have hbyte : (BitVec.ofNat 8 v).toNat = v % 256 := BitVec.toNat_ofNat v 8
    rw [leBytes, ofLe, ih, hbyte, Nat.pow_succ', Nat.mod_mul]

@[simp] theorem length_leBytes (n v : Nat) : (leBytes n v).length = n := by
  induction n generalizing v with
  | zero => rfl
  | succ n ih => simp [leBytes, ih]

/-- The last four bytes of a frame with its FCS spell the CRC-32 of the others (R104). -/
theorem fcs_withFcs (l : List Byte) :
    ofLe ((withFcs l).drop ((withFcs l).length - 4)) = crc32 l ∧ (withFcs l).take ((withFcs l).length - 4) = l := by
  simpa [withFcs, ofLe_leBytes] using crc32_lt l

theorem fcsOk_withFcs (l : List Byte) : fcsOk (withFcs l) = true := by
  obtain ⟨hfcs, hdata⟩ := fcs_withFcs l
  simp [fcsOk, hfcs, hdata]

theorem fcsStomped_withFcs (l : List Byte) : fcsStomped (withFcs l) = false := by
  obtain ⟨hfcs, hdata⟩ := fcs_withFcs l
  have hne : crc32 l ≠ crc32 l ^^^ 0xFFFFFFFF := fun h => by
    have hzero := congrArg (crc32 l ^^^ ·) h
    rw [Nat.xor_self, ← Nat.xor_assoc, Nat.xor_self, Nat.zero_xor] at hzero
    exact absurd hzero (by decide)
  simp [fcsStomped, hfcs, hdata, hne]

/- A device on which one frame arrives. -/

/-- Eight dies; d0 has the counters `cs`, and its first slice the ingress queue `q`. -/
def ingressDies (cs : List (Nat × Nat)) (q : List Nat) : List Die :=
  { slices := { pow := .on, queue := q } :: List.replicate 3 {}, counters := cs } :: List.replicate 7 {}

/-- A KM-8800 with these dies, one port, d0.p0, and the frames `fs`; it holds no copy, no VOQ and no chain. -/
def ingressDev (P : Port) (fs : List Frame) (cs : List (Nat × Nat)) (q : List Nat) : Dev :=
  { run := .running
    pwrOk := true
    dies := ingressDies cs q
    ports := [(0, P)]
    frames := fs
    nextId := 1 + fs.length }

/-- The record of a frame of class `tc` that arrives on d0.p0 of a device that holds no other. -/
def arrived (stamp : Int × List Nat) (lane tc : Nat) : Frame :=
  { id := 1, tc := tc, rxAt := stamp.1, rxNs := stamp.2, laneIn := lane }

/-- The same frame after its drop, with the bytes `l`; its length is `len` once it has ended. -/
def discarded (stamp : Int × List Nat) (lane tc : Nat) (l : List Byte) (len : Option Nat) : Frame :=
  { arrived stamp lane tc with
    dropped := true
    stage := .gone
    bytes := l
    len := len }

section
variable (P : Port) (fs : List Frame) (cs : List (Nat × Nat)) (q : List Nat)

@[simp] theorem onPort_ingressDev (g : Port → Port) : onPort (ingressDev P fs cs q) 0 g = ingressDev (g P) fs cs q := rfl

theorem setRx_ingressDev (st : RxSt) (f : Option Nat) :
    setRx (ingressDev P fs cs q) 0 st f = ingressDev { P with rx := st, rxFrame := f } fs cs q := rfl

@[simp] theorem portOf_ingressDev : portOf (ingressDev P fs cs q) 0 = P := rfl

@[simp] theorem alive_ingressDev : alive (ingressDev P fs cs q) (dieOfPort 0) = true := rfl

@[simp] theorem isPeerPort_ingressDev (p : Nat) : isPeerPort (ingressDev P fs cs q) p = false := rfl

@[simp] theorem roleSent_ingressDev : roleSent (ingressDev P fs cs q) = 0 := rfl

/-- The counters `cs` after counter `off` of local port 0 has risen by `k`. -/
def bumped (cs : List (Nat × Nat)) (off k : Nat) : List (Nat × Nat) :=
  kput cs (slotPort 0 off) ((kget cs (slotPort 0 off) 0 + k) % two64)

theorem bumpPort_ingressDev (off k : Nat) :
    bumpPort (ingressDev P fs cs q) 0 off k = ingressDev P fs (bumped cs off k) q := rfl

/-- Every block advances the port's stream; the slice is awake (R98). -/
theorem blockSeen_ingressDev : blockSeen (ingressDev P fs cs q) 0 = nextBlock (ingressDev P fs cs q) 0 := rfl

/-- The counters after a drop of a frame of `k` bytes on d0.p0 (R321). -/
def dropCounts (cs : List (Nat × Nat)) (code k : Nat) : List (Nat × Nat) :=
  (dieOf (countDrop (ingressDev {} [] cs []) 0 (some 0) none code k) 0).counters

theorem countDrop_ingressDev (code k : Nat) :
    countDrop (ingressDev P fs cs q) 0 (some 0) none code k = ingressDev P fs (dropCounts cs code k) q := rfl

end

section
variable {F : Frame} (P : Port) (cs : List (Nat × Nat)) (q : List Nat)

theorem find_ingressDev (hid : F.id = 1) : (ingressDev P [F] cs q).frames.find? (fun f => f.id == 1) = some F := by
  show [F].find? _ = some F
  simp [hid]

theorem onFrame_ingressDev (hid : F.id = 1) (g : Frame → Frame) :
    onFrame (ingressDev P [F] cs q) 1 g = ingressDev P [g F] cs q := by
  have hmap : [F].map (fun f => if f.id = 1 then g f else f) = [g F] := by simp [hid]
  exact congrArg (fun fs => { ingressDev P [F] cs q with frames := fs }) hmap

theorem frameOf_ingressDev (hid : F.id = 1) : frameOf (ingressDev P [F] cs q) 1 = F := by
  unfold frameOf
  rw [find_ingressDev P cs q hid]
  rfl

theorem mirrorsOf_ingressDev (hkind : F.kind = .received) (i : Nat) : mirrorsOf (ingressDev P [F] cs q) i = [] := by
  show [F].filter _ = []
  simp [hkind]

theorem leaveQueues_ingressDev (G : Frame) (hid : F.id = 1) (hdie : F.die = 0) :
    leaveQueues (ingressDev P [G] cs q) F = ingressDev P [G] cs (q.filter (· != 1)) := by
  unfold leaveQueues
  rw [hid, hdie]
  rfl

/-- A frame without cells is at most forgotten when it settles. -/
theorem settle_ingressDev_dies (hid : F.id = 1) (hchain : F.chain = []) :
    (settle (ingressDev P [F] cs q) 1).dies = ingressDies cs q := by
  have hfind := find_ingressDev P cs q hid
  have hvacate : vacateAll (ingressDev P [F] cs q) 1 = ingressDev P [F] cs q := rfl
  unfold settle
  rw [hfind]
  simp only [hchain, hvacate, List.isEmpty_nil, if_true, ite_self]
  split <;> rfl

/-- A frame whose end has not come stays. -/
theorem settle_ingressDev_open (hid : F.id = 1) (hchain : F.chain = []) (hlen : F.len = none) :
    settle (ingressDev P [F] cs q) 1 = ingressDev P [F] cs q := by
  have hfind := find_ingressDev P cs q hid
  have hvacate : vacateAll (ingressDev P [F] cs q) 1 = ingressDev P [F] cs q := rfl
  unfold settle
  rw [hfind]
  simp [hchain, hvacate, frameBusy, hlen]

theorem countReceived_of_not_good (hid : F.id = 1) (hgood : F.good = false) :
    countReceived (ingressDev P [F] cs q) 1 = ingressDev P [F] cs q := by
  simp [countReceived, frameOf_ingressDev P cs q hid, hgood]

theorem countReceived_of_counted (hid : F.id = 1) (hcounted : F.counted = true) :
    countReceived (ingressDev P [F] cs q) 1 = ingressDev P [F] cs q := by
  simp [countReceived, frameOf_ingressDev P cs q hid, hcounted]

/-- The frame takes its bytes: a dropped frame asks for no cell, and no copy of it leaves. -/
theorem appendBytes_ingressDev (hid : F.id = 1) (hpassed : F.passed3 = false) (hgone : F.stage = .gone) (l : List Byte) :
    appendBytes (ingressDev P [F] cs q) 1 l = ingressDev P [{ F with bytes := F.bytes ++ l }] cs q := by
  have hstreams : ∀ G, advanceStreams (ingressDev P [G] cs q) 1 = ingressDev P [G] cs q := fun _ => rfl
  simp [appendBytes, onFrame_ingressDev, frameOf_ingressDev, hstreams, hid, hpassed, hgone]

/-- The counters `cs` after a frame of class `tc` and `l` bytes has been counted as received on local port 0 (R734). -/
def receivedCounts (cs : List (Nat × Nat)) (tc l : Nat) : List (Nat × Nat) :=
  bumped (bumped cs (cntRxFrames + tc) 1) (cntRxBytes + tc) l

theorem bumped_bumped (cs : List (Nat × Nat)) (tc l : Nat) :
    bumped (bumped cs (cntRxFrames + tc) 1) (cntRxBytes + tc) l = receivedCounts cs tc l := rfl

/-- A dropped frame that ended well is counted as received in its class (R734). -/
theorem countReceived_ingressDev (hid : F.id = 1) (hport : F.port = 0) (hkind : F.kind = .received)
    (hpassed : F.passed3 = false) (hgone : F.stage = .gone) (hgood : F.good = true) (hcounted : F.counted = false) :
    countReceived (ingressDev P [F] cs q) 1 =
      ingressDev P [{ F with counted := true }] (receivedCounts cs F.tc (sizeOf' F)) q := by
  simp [countReceived, frameOf_ingressDev, onFrame_ingressDev, bumpPort_ingressDev, bumped_bumped, dropTenant, hid, hport,
    hkind, hpassed, hgone, hgood, hcounted]

theorem tailCheck_ingressDev (hid : F.id = 1) (htail : F.parsed.tailBad = []) (hdropped : F.dropped = true) :
    tailCheck (ingressDev P [F] cs q) 1 = ingressDev P [F] cs q := by
  simp [tailCheck, frameOf_ingressDev P cs q hid, htail, hdropped]

/-- A frame without mirror copies has none to end. -/
theorem endCopies_ingressDev (hkind : F.kind = .received) :
    endHostCopies (judgeMirrors (endMirrors (ingressDev P [F] cs q) 1) 1) 1 = ingressDev P [F] cs q := by
  simp [endMirrors, judgeMirrors, endHostCopies, mirrorsOf_ingressDev P cs q hkind]

end

/- The frame, from its first byte to its end. -/

section
variable {P : Port} (cs : List (Nat × Nat)) {q : List Nat}

/-- The frame is dropped as it begins: the drop is counted, and nothing else is (R321). -/
theorem dropFrame_arrived (P : Port) (stamp : Int × List Nat) (lane tc reason : Nat) :
    dropFrame (ingressDev P [arrived stamp lane tc] cs q) 1 reason =
      ingressDev P [discarded stamp lane tc [] none] (dropCounts cs reason 0) (q.filter (· != 1)) := by
  have hleave : ∀ G cs, leaveQueues (ingressDev P [G] cs q) (arrived stamp lane tc) =
      ingressDev P [G] cs (q.filter (· != 1)) :=
    fun G cs => leaveQueues_ingressDev P cs q G rfl rfl
  delta discarded arrived at hleave ⊢
  simp [dropFrame, dropFrameOn, frameOf_ingressDev, sizeOf', dropTenant, countDrop_ingressDev,
    dropMirrors, mirrorsOf_ingressDev, countRuleBytes, onFrame_ingressDev, countReceived_of_not_good, hleave,
    settle_ingressDev_open]

/-- Its end, when the checks have passed, adds the reception to the counters (R734). -/
theorem frameEnded_discarded_dies (P : Port) (stamp : Int × List Nat) (lane tc : Nat) (l : List Byte) :
    (frameEnded (ingressDev P [discarded stamp lane tc l (some l.length)] cs q) 1).dies =
      ingressDies (receivedCounts cs tc l.length) q := by
  delta discarded arrived
  simp [frameEnded, onFrame_ingressDev, frameOf_ingressDev, countReceived_ingressDev,
    countReceived_of_counted, tailCheck_ingressDev, endCopies_ingressDev, settle_ingressDev_dies, countRuleBytes, sizeOf']

/-- An Ethernet frame with a right FCS passes the checks at its end (R404). -/
theorem ethEnded_discarded_dies (P : Port) (stamp : Int × List Nat) (lane tc : Nat) {l : List Byte}
    (hshort : l.length ≤ 9728) (hfcs : fcsOk l = true) (hstomp : fcsStomped l = false) :
    (ethEnded (ingressDev P [discarded stamp lane tc l none] cs q) 1 .none).dies =
      ingressDies (receivedCounts cs tc l.length) q := by
  have hlong : ¬ 9728 < l.length := by omega
  have hcounts : (frameEnded (ingressDev P [discarded stamp lane tc l (some l.length)] cs q) 1).dies =
      ingressDies (receivedCounts cs tc l.length) q := frameEnded_discarded_dies cs P stamp lane tc l
  delta discarded arrived at hcounts ⊢
  simpa [ethEnded, onFrame_ingressDev, frameOf_ingressDev, hfcs, hstomp, hlong] using hcounts

/-- A frame that begins while the slice holds 4,096 entries is dropped at once (R26). -/
theorem beginFrame_ingressDev_full (heth : P.conf.mode = 2) (hfull : 4096 ≤ q.length) (stamp : Int × List Nat) (tc : Nat) :
    beginFrame (ingressDev P [] cs q) 0 stamp { tc := tc } =
      (1, dropFrame (ingressDev { P with lastRx := 0 } [arrived stamp (laneRate P) tc] cs q) 1 drIngressOverrun) := by
  unfold beginFrame
  rw [if_neg, if_neg, if_pos]
  · rfl
  · exact Bool.or_eq_true_iff.mpr (.inr (decide_eq_true hfull))
  · exact Bool.false_ne_true
  · show ¬(P.conf.mode == 1 && _) = true
    simp [heth]

/-- A frame that is dropped as it begins and then ends well is counted twice: as a drop, and as received in its class. -/
theorem dropped_at_begin_ended_dies (P : Port) (stamp : Int × List Nat) (lane tc reason : Nat) (rx rx' : RxSt)
    (i i' : Option Nat) {l : List Byte} (hshort : l.length ≤ 9728) (hfcs : fcsOk l = true) (hstomp : fcsStomped l = false) :
    (ethEnded (setRx (appendBytes (setRx (dropFrame (ingressDev P [arrived stamp lane tc] cs q) 1 reason) 0 rx i) 1 l)
        0 rx' i') 1 .none).dies =
      ingressDies (receivedCounts (dropCounts cs reason 0) tc l.length) (q.filter (· != 1)) := by
  have happend : ∀ P cs q, appendBytes (ingressDev P [discarded stamp lane tc [] none] cs q) 1 l =
      ingressDev P [discarded stamp lane tc l none] cs q :=
    fun P cs q => appendBytes_ingressDev (F := discarded stamp lane tc [] none) P cs q rfl rfl rfl l
  rw [dropFrame_arrived, setRx_ingressDev, happend, setRx_ingressDev, ethEnded_discarded_dies _ _ _ _ _ hshort hfcs hstomp]

/-- What a whole frame that arrives while the slice holds 4,096 entries leaves in the dies: both counts. -/
theorem ethFrame_ingressDev_full_dies (heth : P.conf.mode = 2) (hup : P.link = .up) (hrx : P.rx = .out)
    (hhold : P.macHold = none) (hfull : 4096 ≤ q.length) {l : List Byte} (hmac : isMacControl l = false)
    (hshort : l.length ≤ 9728) (hfcs : fcsOk l = true) (hstomp : fcsStomped l = false) :
    (ethFrame (ingressDev P [] cs q) 0 l (some .none)).dies =
      ingressDies (receivedCounts (dropCounts cs drIngressOverrun 0) (ethClass P.set l) l.length)
        (q.filter (· != 1)) := by
  have hisEth : isEth (ingressDev P [] cs q) 0 = true := by simp [isEth, heth]
  have hportUp : portUp (ingressDev P [] cs q) 0 = true := by simp [portUp, hup]
  unfold ethFrame
  simp [hisEth, hportUp, hup, hrx, hhold, hmac, heth, hfull, blockSeen_ingressDev, nextBlock, beginFrame_ingressDev_full,
    dropped_at_begin_ended_dies, hshort, hfcs, hstomp]

end

/- The state that refutes the statement. -/

/-- An UP Ethernet port whose TC_DEFAULT is 39, where a class is 0 to 7 (R234). -/
def wideClassPort : Port :=
  { conf := { mode := 2, width := 1, rate := 2 }
    run := { mode := 2, width := 1, rate := 2 }
    link := .up
    power := .l0
    set := { tcDefault := 39 } }

/-- d0.p0 is that port, and its slice holds 4,096 entries of a frame that it no longer records. -/
def overrunState : State := { dev := ingressDev wideClassPort [] [] (List.replicate 4096 0) }

/-- A frame of 64 bytes with a right FCS, which carries no tag and is no MAC control frame. -/
def untaggedFrame : List Byte := withFcs (List.replicate 60 0)

theorem overrunState_recordInv : recordInv overrunState.dev := by
  refine ⟨fun f hf => absurd hf List.not_mem_nil, by decide, fun x hx => ?_⟩
  rcases List.mem_cons.mp hx with rfl | hx
  · refine ⟨fun y hy i hi => ?_, by decide⟩
    rcases List.mem_cons.mp hy with rfl | hy
    · rw [List.eq_of_mem_replicate hi]
      decide
    · rw [List.eq_of_mem_replicate hy] at hi
      exact absurd hi List.not_mem_nil
  · rw [List.eq_of_mem_replicate hx]
    decide

theorem untaggedFrame_etherType : be untaggedFrame 12 2 = 0 := by rfl

theorem untaggedFrame_short : untaggedFrame.length ≤ 9728 := by
  show (withFcs _).length ≤ 9728
  simp [withFcs]

theorem untaggedFrame_not_macControl : isMacControl untaggedFrame = false := by
  simp [isMacControl, untaggedFrame_etherType]

theorem ethClass_untaggedFrame (q : PortSet) : ethClass q untaggedFrame = q.tcDefault := by
  simp [ethClass, untaggedFrame_etherType, pcpClass]

/-- CNT_RX_FRAMES of class 39 is the slot of CNT_DROP_FRAMES for DR_INGRESS_OVERRUN (R319), so the slot counts the frame
twice. -/
theorem overrunState_counts_twice :
    counterOf (ethFrame overrunState.dev 0 untaggedFrame (some .none)) (dieOfPort 0)
      (slotPort (localOf 0) (cntPortDropFrames + drIngressOverrun)) = 2 := by
  have hfull : 4096 ≤ (List.replicate 4096 0).length := Nat.le_of_eq List.length_replicate.symm
  have hdies : (ethFrame overrunState.dev 0 untaggedFrame (some .none)).dies = ingressDies _ _ :=
    ethFrame_ingressDev_full_dies (P := wideClassPort) [] rfl rfl rfl rfl hfull untaggedFrame_not_macControl
      untaggedFrame_short (fcsOk_withFcs _) (fcsStomped_withFcs _)
  rw [ethClass_untaggedFrame] at hdies
  unfold counterOf dieOf
  rw [hdies]
  rfl

theorem overrunState_not_portCounted :
    ¬ PortCounted overrunState { overrunState with dev := ethFrame overrunState.dev 0 untaggedFrame (some .none) } 0
      (cntPortDropFrames + drIngressOverrun) := by
  unfold PortCounted Counted
  rw [overrunState_counts_twice]
  decide

/-- Refutes O59: a class is a number without a bound in the state, and nothing in the statement keeps TC_DEFAULT below 8. On
`overrunState` the whole frame `untaggedFrame` is dropped as DR_INGRESS_OVERRUN, and CNT_DROP_FRAMES of the port for that
reason rises by 2. -/
theorem not_ingressOverrun : ¬ Obligations.IngressOverrun := by
  intro h
  have hfull : 4096 ≤ (sliceOf overrunState.dev (dieOfPort 0) (sliceOfPort 0)).queue.length :=
    Nat.le_of_eq List.length_replicate.symm
  obtain ⟨-, hdropped⟩ := h overrunState 0 rfl rfl rfl overrunState_recordInv (.inr hfull)
  obtain ⟨t, hstep, -, hport, -⟩ := hdropped untaggedFrame (some .none) untaggedFrame rfl rfl (List.nil_append _).symm
    (fun _ => untaggedFrame_not_macControl) (fun hopen => by cases hopen)
  rw [exec_ethRxFrame] at hstep
  obtain rfl := Host.Outcome.next.inj hstep
  exact overrunState_not_portCounted hport

end Sys2Proof.Machine
end

section
/-! PROOFS. O60 holds. A level that differs from the debounced one starts the debounce; one that returns within 10 µs ends it
with a count; one that stands for 10 µs is taken over, and what the port then does (a base attempt, an exit from L2, a link
that fails) keeps it. The last needs a frame of the links: taking a port down touches no lane, and bring-up forgets of a lane
what it has locked to, never its signal detect. -/

namespace Sys2Proof.Machine

open Sys2Proof.Claims

/- Lanes are kept by everything that reports, for `body` holds them. -/

section
variable (d : Dev)

theorem lanes_of_body {d e : Dev} (h : body d = body e) : d.lanes = e.lanes := (congrArg Dev.lanes h :)

/-- A branch that keeps the lanes either way keeps them. -/
theorem lanes_ite {c : Prop} {_ : Decidable c} {a b : Dev} {l : List (Nat × Lane)} (ha : a.lanes = l) (hb : b.lanes = l) :
    (if c then a else b).lanes = l := by
  split <;> assumption

@[simp] theorem bump_lanes (n i k : Nat) : (bump d n i k).lanes = d.lanes := rfl
@[simp] theorem bumpDie_lanes (n i k : Nat) : (bumpDie d n i k).lanes = d.lanes := rfl
@[simp] theorem bumpPort_lanes (p i k : Nat) : (bumpPort d p i k).lanes = d.lanes := rfl
@[simp] theorem onSlice_lanes (n s : Nat) (f : Slice → Slice) : (onSlice d n s f).lanes = d.lanes := rfl
@[simp] theorem onComb_lanes (n : Nat) (f : Comb → Comb) : (onComb d n f).lanes = d.lanes := rfl
@[simp] theorem onChain_lanes (n i : Nat) (f : McChain → McChain) : (onChain d n i f).lanes = d.lanes := rfl
@[simp] theorem emitOn_lanes (p : Nat) (o : Out) : (emitOn d p o).lanes = d.lanes := rfl

@[simp] theorem countDrop_lanes (n : Nat) (p t : Option Nat) (c b : Nat) : (countDrop d n p t c b).lanes = d.lanes :=
  lanes_of_body (body_countDrop d n p t c b)

@[simp] theorem raise_lanes (n c : Nat) (l : List Byte) : (raise d n c l).lanes = d.lanes :=
  lanes_of_body (body_raise d n c l)

@[simp] theorem becomeStale_lanes (c : Nat) : (becomeStale d c).lanes = d.lanes := by
  unfold becomeStale
  split
  · exact lanes_of_body (body_markStale d c)
  · rfl

/- Messages of a port, and its power states. -/

@[simp] theorem sendRoles_lanes (p : Nat) : (sendRoles d p).lanes = d.lanes := rfl
@[simp] theorem sendWake_lanes (p : Nat) : (sendWake d p).lanes = d.lanes := rfl

@[simp] theorem exitL2_lanes (p : Nat) : (exitL2 d p).lanes = d.lanes := by
  unfold exitL2
  exact lanes_ite (by simp) rfl

@[simp] theorem announceRole_lanes (p : Nat) : (announceRole d p).lanes = d.lanes := lanes_ite (by simp) rfl

@[simp] theorem leaveL1_lanes (p : Nat) : (leaveL1 d p).lanes = d.lanes := by
  unfold leaveL1
  exact lanes_ite (by simp) (lanes_ite (by simp) rfl)

@[simp] theorem wakeTx_lanes (p : Nat) : (wakeTx d p).lanes = d.lanes := by simp [wakeTx]

@[simp] theorem countWake_lanes (n s : Nat) : (countWake d n s).lanes = d.lanes := by
  unfold countWake
  split <;> rfl

@[simp] theorem wakeSlice_lanes (n s : Nat) : (wakeSlice d n s).lanes = d.lanes := lanes_ite rfl (by simp)

@[simp] theorem sendVeXoff_lanes (p v : Nat) (on : Bool) : (sendVeXoff d p v on).lanes = d.lanes := by
  unfold sendVeXoff
  exact lanes_ite (by simp) (by simp)

@[simp] theorem decideVe_lanes (n v : Nat) : (decideVe d n v).lanes = d.lanes := by
  unfold decideVe
  exact lanes_ite rfl (lanes_ite (by simp) (lanes_ite (by simp) rfl))

@[simp] theorem sendPause_lanes (p : Nat) (c : Option Nat) : (sendPause d p c).lanes = d.lanes := by
  unfold sendPause
  refine lanes_ite (by simp) (lanes_ite (by simp) (lanes_ite (by simp) (lanes_ite (by simp) ?_)))
  cases c <;> simp

@[simp] theorem decideAll_lanes (p : Nat) : (decideAll d p).lanes = d.lanes := by
  unfold decideAll
  exact lanes_ite (by simp) (lanes_ite (by simp) rfl)

@[simp] theorem decideClass_lanes (p c : Nat) : (decideClass d p c).lanes = d.lanes := by
  unfold decideClass
  exact lanes_ite (by simp) (lanes_ite (by simp) rfl)

@[simp] theorem decidePause_lanes (p : Nat) : (decidePause d p).lanes = d.lanes := by
  have hclasses : ((List.range 8).foldl (fun d c => decideClass d p c) d).lanes = d.lanes :=
    foldl_keeps Dev.lanes _ (fun d c => decideClass_lanes d p c) _ d
  exact lanes_ite rfl (lanes_ite (by simp) (lanes_ite hclasses rfl))

/- Quotas, charges and the cells of the comb. -/

@[simp] theorem checkOver_lanes (n t : Nat) : (checkOver d n t).lanes = d.lanes := by
  unfold checkOver raiseOver
  exact lanes_ite rfl (lanes_ite (by simp) (by simp))

@[simp] theorem chargeEnergy_lanes (n a ops : Nat) : (chargeEnergy d n a ops).lanes = d.lanes := by
  simp [chargeEnergy, chargeAt]

@[simp] theorem feedEnergy_lanes (n : Nat) (f : Frame) (ops : Nat) : (feedEnergy d n f ops).lanes = d.lanes :=
  lanes_ite rfl (by simp)

@[simp] theorem chargeComb_lanes (n v t : Nat) (k : Int) : (chargeComb d n v t k).lanes = d.lanes :=
  by simp [chargeComb]

@[simp] theorem chargeStore_lanes (n t : Nat) (k : Int) : (chargeStore d n t k).lanes = d.lanes :=
  by simp [chargeStore]

@[simp] theorem combRefused_lanes (n c k : Nat) : (combRefused d n c k).lanes = d.lanes :=
  lanes_ite (by simp) (by simp)

@[simp] theorem refuseReturn_lanes (n : Nat) (cs : List Nat) : (refuseReturn d n cs).lanes = d.lanes := by
  simp [refuseReturn]

@[simp] theorem returnCells_lanes (n : Nat) (cs : List Nat) (d : Dev) : (returnCells n cs d).lanes = d.lanes := by
  induction cs generalizing d with
  | nil => rfl
  | cons c r ih =>
    have hone : (noteFree (onComb d n fun b => { b with
        held := b.held.filter fun h => h.cell ≠ c
        free := if unlisted (combOf d n) c then b.free else linkTail b.free c }) n).lanes = d.lanes := rfl
    exact lanes_ite (by simp) ((ih _).trans hone)

@[simp] theorem returnOwned_lanes (n : Nat) (o p : Owner) (cs : List Nat) : (returnOwned d n o p cs).lanes = d.lanes :=
  lanes_ite (by simp) (by simp)

@[simp] theorem vacate_lanes (i p : Nat) (c : Nat × Nat) : (vacate d i p c).lanes = d.lanes := by
  unfold vacate
  dsimp only
  split <;> simp

@[simp] theorem vacateAll_lanes (i : Nat) : (vacateAll d i).lanes = d.lanes := by
  refine foldl_keeps Dev.lanes _ (fun d e => ?_) _ d
  refine foldl_keeps Dev.lanes _ (fun d p => ?_) _ d
  exact foldl_keeps Dev.lanes _ (fun d c => vacate_lanes d i p.idx c) _ d

@[simp] theorem releaseChain_lanes (f : Frame) : (releaseChain d f).lanes = d.lanes := by
  unfold releaseChain
  refine lanes_ite (by simp) ?_
  dsimp only
  rw [decidePause_lanes, onFrame_lanes]
  split
  · exact lanes_ite (lanes_ite (by simp) (by simp)) (by simp [lanes_ite])
  · simp

@[simp] theorem settle_lanes (i : Nat) : (settle d i).lanes = d.lanes := by
  unfold settle
  split
  · rfl
  · have hcells : ∀ f, (if chainBusy d f then vacateAll d i else if f.chain.isEmpty then d else releaseChain d f).lanes =
        d.lanes := fun f => lanes_ite (by simp) (lanes_ite rfl (by simp))
    exact lanes_ite (hcells _) (hcells _)

/- Virtual output queues. -/

@[simp] theorem clearPacked_lanes (q : VoqKey) : (clearPacked d q).lanes = d.lanes := by
  refine foldl_keeps Dev.lanes _ (fun d e => ?_) _ _
  split <;> rfl

@[simp] theorem settleVoq_lanes (q : VoqKey) : (settleVoq d q).lanes = d.lanes := lanes_ite (by simp) rfl

@[simp] theorem settleSpill_lanes (i : Nat) : (settleSpill d i).lanes = d.lanes :=
  foldl_keeps Dev.lanes _ settleVoq_lanes _ d

@[simp] theorem returnBalance_lanes (q : VoqKey) : (returnBalance d q).lanes = d.lanes := lanes_ite rfl (by simp)

@[simp] theorem refund_lanes (q : VoqKey) (n : Nat) (cs : List Nat) : (refund d q n cs).lanes = d.lanes :=
  lanes_ite (by simp) (by simp)

@[simp] theorem giveUp_lanes (f : Frame) (q : VoqKey) (cut : Bool) (cs : List Nat) :
    (giveUp d f q cut cs).2.lanes = d.lanes := by
  unfold giveUp
  split <;> simp

/- Streams over the bridges. -/

@[simp] theorem feedBridge_lanes (n m fuel : Nat) (d : Dev) : (feedBridge n m fuel d).lanes = d.lanes := by
  induction fuel generalizing d with
  | zero => rfl
  | succ fuel ih =>
    unfold feedBridge
    simp only
    split
    · split
      · rfl
      · split
        · rfl
        · rw [ih]
          rfl
    · rfl

@[simp] theorem pushPart_lanes (q : VoqKey) (c : Nat) (x : Piece) : (pushPart d q c x).lanes = d.lanes := by
  simp [pushPart, feed]

@[simp] theorem pushStream_lanes (f : Frame) (q : VoqKey) (c k : Nat) (slow ecn fin bad : Bool) :
    (pushStream d f q c k slow ecn fin bad).2.lanes = d.lanes := by
  unfold pushStream
  dsimp only
  rw [apply_ite Prod.snd]
  exact lanes_ite rfl (by simp)

@[simp] theorem closeCopy_lanes (f : Frame) (bad : Bool) (c : Copy) : (closeCopy d f bad c).lanes = d.lanes :=
  lanes_ite (by simp) (by simp)

@[simp] theorem closeChain_lanes (f : Frame) (bad : Bool) (m : McChain) : (closeChain d f bad m).lanes = d.lanes :=
  lanes_ite (by simp) (lanes_ite (by simp) (by simp))

@[simp] theorem closeStreams_lanes (f : Frame) (bad : Bool) : (closeStreams d f bad).lanes = d.lanes :=
  (foldl_keeps Dev.lanes _ (fun d m => closeChain_lanes d f bad m) _ _).trans
    (foldl_keeps Dev.lanes _ (fun d c => closeCopy_lanes d f bad c) _ d)

/- Copies, chains and frames that are given up. -/

@[simp] theorem unqueue_lanes (c : Copy) : (unqueue d c).lanes = d.lanes := rfl

@[simp] theorem settleChain_lanes (n i : Nat) : (settleChain d n i).lanes = d.lanes := by
  unfold settleChain
  split
  · rfl
  · split <;> simp

@[simp] theorem forgetCopy_lanes (c : Copy) : (forgetCopy d c).lanes = d.lanes := by
  unfold forgetCopy
  exact (settle_lanes _ _).trans (lanes_ite (by simp) (by simp))

@[simp] theorem abortCopies_lanes (l : List Copy) (r k : Nat) : (abortCopies d l r k).lanes = d.lanes :=
  foldl_keeps Dev.lanes _ (fun _ _ => lanes_ite (by simp) (by simp)) l d

@[simp] theorem abortChain_lanes (n i : Nat) : (abortChain d n i).lanes = d.lanes := by simp [abortChain]

@[simp] theorem abortOut_lanes (f : Frame) (r k : Nat) : (abortOut d f r k).lanes = d.lanes := by
  unfold abortOut
  dsimp only
  rw [foldl_keeps Dev.lanes _ fun d (m : McChain) => abortChain_lanes d m.die f.id]
  simp

@[simp] theorem dropCopyOn_lanes (n : Nat) (f : Frame) (r : Nat) : (dropCopyOn d n f r).lanes = d.lanes := by
  unfold dropCopyOn
  refine lanes_ite rfl ?_
  dsimp only
  rw [settle_lanes, abortOut_lanes, onFrame_lanes]
  split <;> simp

@[simp] theorem dropCopyFrame_lanes (f : Frame) (r : Nat) : (dropCopyFrame d f r).lanes = d.lanes :=
  dropCopyOn_lanes d f.die f r

@[simp] theorem dropMirrors_lanes (f : Frame) (r k : Nat) : (dropMirrors d f r k).lanes = d.lanes :=
  foldl_keeps Dev.lanes _ (fun _ _ => lanes_ite (by simp) (by simp)) _ d

@[simp] theorem dropMirrorsOf_lanes (c : Copy) (r k : Nat) : (dropMirrorsOf d c r k).lanes = d.lanes :=
  foldl_keeps Dev.lanes _ (fun _ _ => lanes_ite (by simp) (by simp)) _ d

@[simp] theorem countRuleBytes_lanes (f : Frame) : (countRuleBytes d f).lanes = d.lanes := by
  unfold countRuleBytes
  split <;> simp

@[simp] theorem countReceived_lanes (i : Nat) : (countReceived d i).lanes = d.lanes := by
  unfold countReceived
  refine lanes_ite rfl ?_
  dsimp only
  split <;> simp

@[simp] theorem leaveQueues_lanes (f : Frame) : (leaveQueues d f).lanes = d.lanes := rfl

@[simp] theorem dropFrame_lanes (i r : Nat) : (dropFrame d i r).lanes = d.lanes := by
  unfold dropFrame dropFrameOn
  refine lanes_ite rfl ?_
  dsimp only
  rw [settle_lanes, leaveQueues_lanes, countReceived_lanes, onFrame_lanes, dropMirrors_lanes, countRuleBytes_lanes]
  exact lanes_ite (by simp) (by simp)

@[simp] theorem badFrame_lanes (i r k : Nat) : (badFrame d i r k).lanes = d.lanes :=
  lanes_ite rfl (lanes_ite (by simp) (by simp))

@[simp] theorem dropItem_lanes (q : VoqKey) (t : VItem) (r : Nat) : (dropItem d q t r).lanes = d.lanes :=
  lanes_ite rfl (lanes_ite (by simp) (lanes_ite (lanes_ite (by simp) (by simp)) (by simp)))

@[simp] theorem flushVoq_lanes (q : VoqKey) (r : Nat) : (flushVoq d q r).lanes = d.lanes := by
  unfold flushVoq
  dsimp only
  rw [settleVoq_lanes, foldl_keeps Dev.lanes _ fun d (t : VItem) => settle_lanes d t.fid, onVoq_lanes, clearPacked_lanes,
    foldl_keeps Dev.lanes _ fun d t => dropItem_lanes d q t r, returnBalance_lanes]

@[simp] theorem cutTxts_lanes (c : Copy) : (cutTxts d c).lanes = d.lanes := by
  have hadd : ∀ t, (addTxts d c.port c (frameOf d c.fid) t false).lanes = d.lanes := fun t =>
    lanes_ite rfl (lanes_ite (by simp) (lanes_ite (lanes_ite (by simp) (by simp)) (by simp)))
  unfold cutTxts
  split
  · exact lanes_ite (hadd _) rfl
  · rfl

@[simp] theorem countGroup_lanes (n : Nat) (f : Frame) (k : Nat) : (countGroup d n f k).lanes = d.lanes := by
  unfold countGroup
  split
  · exact lanes_ite (by simp) rfl
  · rfl

@[simp] theorem memberDone_lanes (n i : Nat) (sent : Bool) : (memberDone d n i sent).lanes = d.lanes :=
  lanes_ite (by simp) (by simp)

@[simp] theorem countCopyDrop_lanes (c : Copy) (r k : Nat) : (countCopyDrop d c r k).lanes = d.lanes := by
  unfold countCopyDrop
  dsimp only
  split
  · simp
  · exact lanes_ite (by simp) (by simp)
  · simp

@[simp] theorem dropCopy_lanes (c : Copy) (r : Nat) : (dropCopy d c r).lanes = d.lanes :=
  (forgetCopy_lanes _ c).trans (lanes_ite (by simp) (by simp))

/- A port goes out of service, or into quarantine (R84, R732). -/

@[simp] theorem setLink_lanes (p : Nat) (l : Link) : (setLink d p l).lanes = d.lanes := by
  unfold setLink
  refine lanes_ite rfl ?_
  dsimp only
  rw [raise_lanes, onPort_lanes]
  exact lanes_ite (by simp) rfl

@[simp] theorem clearFlow_lanes (p : Nat) : (clearFlow d p).lanes = d.lanes := rfl

@[simp] theorem setRx_lanes (p : Nat) (st : RxSt) (f : Option Nat) : (setRx d p st f).lanes = d.lanes := rfl

@[simp] theorem flushPort_lanes (p r : Nat) : (flushPort d p r).lanes = d.lanes := by
  unfold flushPort
  dsimp only
  rw [onPort_lanes, foldl_keeps Dev.lanes _ fun d c => dropCopy_lanes d c r, foldl_keeps Dev.lanes _ fun d q => flushVoq_lanes d q r]

@[simp] theorem failFrame_lanes (i r k : Nat) : (failFrame d i r k).lanes = d.lanes := by simp [failFrame]

@[simp] theorem breakFrame_lanes (p : Nat) : (breakFrame d p).lanes = d.lanes := by
  unfold breakFrame
  dsimp only
  split <;> split <;> simp

@[simp] theorem takeDown_lanes (p r : Nat) : (takeDown d p r).lanes = d.lanes := by
  unfold takeDown
  dsimp only
  rw [onPort_lanes]
  exact lanes_ite (by simp) (by simp)

@[simp] theorem transition_lanes (p : Nat) : (transition d p).2.lanes = d.lanes := by
  unfold transition quarantinePort raiseQuarantine
  simp only
  split <;> simp

end

/- Bring-up works on lanes, and leaves signal detect alone. -/

/-- What a lane holds of signal detect: the level before and after debounce, and the start of a debounce (R71). -/
def signalOf (d : Dev) (l : Nat) : Bool × Bool × Option Nat :=
  ((laneOf d l).sdRaw, (laneOf d l).sd, (laneOf d l).sdSince)

@[simp] theorem laneOf_bumpPort (d : Dev) (p i k l : Nat) : laneOf (bumpPort d p i k) l = laneOf d l := rfl

theorem signalOf_of_lanes {d e : Dev} (h : d.lanes = e.lanes) (l : Nat) : signalOf d l = signalOf e l := by
  simp [signalOf, laneOf, h]

/-- An update of a lane that writes no field of signal detect keeps the signal of every lane. -/
theorem signalOf_onLane {f : Lane → Lane} (hf : ∀ x, (f x).sdRaw = x.sdRaw ∧ (f x).sd = x.sd ∧ (f x).sdSince = x.sdSince)
    (d : Dev) (k l : Nat) : signalOf (onLane d k f) l = signalOf d l := by
  by_cases h : l = k
  · subst h
    simp [signalOf, hf]
  · simp [signalOf, laneOf_onLane_other d f h]

section
variable (d : Dev)

@[simp] theorem signalOf_clearLanes (p l : Nat) : signalOf (clearLanes d p) l = signalOf d l :=
  foldl_keeps (signalOf · l) _ (fun d k => signalOf_onLane (by simp) d k l) _ d

@[simp] theorem signalOf_startAttempt (p : Nat) (a : Attempt) (r : Nat) (ph : Phase) (l : Nat) :
    signalOf (startAttempt d p a r ph) l = signalOf d l :=
  signalOf_clearLanes _ p l

@[simp] theorem signalOf_applyPolarity (p l : Nat) : signalOf (applyPolarity d p) l = signalOf d l :=
  foldl_keeps (signalOf · l) _ (fun d i => signalOf_onLane (by simp) d (p + i) l) _ d

@[simp] theorem signalOf_setLink (p : Nat) (k : Link) (l : Nat) : signalOf (setLink d p k) l = signalOf d l :=
  signalOf_of_lanes (setLink_lanes d p k) l

@[simp] theorem signalOf_onPort (p : Nat) (f : Port → Port) (l : Nat) : signalOf (onPort d p f) l = signalOf d l :=
  rfl

@[simp] theorem signalOf_emit (o : Out) (l : Nat) : signalOf (emit d o) l = signalOf d l := rfl

@[simp] theorem signalOf_enterSeek (p l : Nat) : signalOf (enterSeek d p) l = signalOf d l := by
  unfold enterSeek
  simp only
  split <;> simp

@[simp] theorem signalOf_startBringup (p l : Nat) : signalOf (startBringup d p) l = signalOf d l := by
  unfold startBringup
  split
  · rfl
  · split
    · simp
    · simp only [signalOf_setLink, signalOf_applyPolarity, signalOf_onPort]
      exact foldl_keeps (signalOf · l) _ (fun d k => signalOf_onLane (by simp) d k l) _ d

/-- A link that fails leaves signal detect alone (R70, R72). -/
theorem signalOf_linkFails (p l : Nat) : signalOf (linkFails d p) l = signalOf d l := by
  unfold linkFails
  split
  · rfl
  · simp only
    split
    · exact signalOf_of_lanes (transition_lanes d p) l
    · rw [signalOf_startBringup]
      exact signalOf_of_lanes (by simp) l

/-- A signal that has risen starts a base attempt or an exit from L2, and stays as it is (R57, R141). -/
theorem signalOf_signalRose (p l : Nat) : signalOf (signalRose d p) l = signalOf d l := by
  unfold signalRose
  simp only
  split
  · exact signalOf_of_lanes (by simp) l
  · split <;> rfl

end

/- What the two events of signal detect do (R71). -/

/-- What the change of a lane's level makes of the lane. -/
def sdChanged (now : Nat) (level : Bool) (x : Lane) : Lane :=
  { x with sdRaw := level, sdSince := if level = x.sd then none else some now }

/-- What the end of the debounce makes of a lane. -/
def sdTaken (x : Lane) : Lane := { x with sd := x.sdRaw, sdSince := none }

section
variable {s : State} {l : Nat}

/-- A new level on a lane of a die that is not lost: it is a glitch where it is the debounced one. -/
theorem exec_signalDetectChange {v : Bool} (ha : alive s.dev (dieOfPort l) = true) (hraw : (laneOf s.dev l).sdRaw ≠ v) :
    exec (.signalDetectChange l v) s = .next { s with
      dev := if v = (laneOf s.dev l).sd then
          bumpPort (onLane s.dev l (sdChanged s.dev.now v)) ((portOfLane s.dev l).getD l) cntSdGlitch 1
        else onLane s.dev l (sdChanged s.dev.now v) } := by
  have hacts : ¬(!alive s.dev (dieOfPort l) || (laneOf s.dev l).sdRaw == v) = true := by simp [ha, hraw]
  exact congrArg (fun d => Host.Outcome.next { s with dev := d }) (if_neg hacts)

/-- Before 10 µs nothing becomes valid. -/
theorem exec_signalDetectValid_early {u : Nat} (hs : (laneOf s.dev l).sdSince = some u)
    (he : expired s.dev u (10 * us) = false) : exec (.signalDetectValid l) s = .next s := by
  show execSignalDetectValid l s = _
  simp [execSignalDetectValid, onDev, hs, he]

/-- A level that has stood for 10 µs becomes the debounced one, whatever its port then does. -/
theorem exec_signalDetectValid_due {u : Nat} (ha : alive s.dev (dieOfPort l) = true)
    (hs : (laneOf s.dev l).sdSince = some u) (he : expired s.dev u (10 * us) = true) :
    ∃ e, exec (.signalDetectValid l) s = .next { s with dev := e } ∧
      signalOf e l = signalOf (onLane s.dev l sdTaken) l := by
  show ∃ e, execSignalDetectValid l s = _ ∧ _
  unfold execSignalDetectValid onDev
  simp only [hs, ha, he, Bool.not_true, Bool.or_self, Bool.false_eq_true, if_false]
  refine ⟨_, rfl, ?_⟩
  split
  · rfl
  · split
    · rfl
    · split
      · exact signalOf_signalRose _ _ l
      · split
        · exact signalOf_linkFails _ _ l
        · rfl

/-- A counter in the slot of a port of a die of the package rises by 1. -/
theorem portCounted_bumpPort {d : Dev} {p off : Nat} (hd : d.dies = s.dev.dies) (hp : dieOfPort p < s.dev.dies.length) :
    PortCounted s { s with dev := bumpPort d p off 1 } p off := by
  unfold PortCounted Counted counterOf bumpPort bump
  rw [dieOf_onDie_same d _ (hd ▸ hp)]
  simp [dieOf, hd]

/-- A die of the part is one of the eight that a device may hold. -/
theorem lt_eight_of_alive {d : Dev} {n : Nat} (h : alive d n = true) : n < 8 := by
  have hn : n < dieCount d.part := by
    simp only [alive, hasDie, Bool.and_eq_true, decide_eq_true_eq] at h
    exact h.1
  have hc : dieCount d.part ≤ 8 := by cases d.part <;> decide
  omega

end

/-- Settles O60: a change starts the debounce, a return within 10 µs ends it with a count, and 10 µs make it valid. -/
theorem signalDetectDebounce : Obligations.SignalDetectDebounce := by
  intro s l hdies ha
  refine ⟨fun hraw => ?_, fun u hs he => exec_signalDetectValid_early hs he, fun u _ hraw _ hp => ?_, fun u hs he => ?_⟩
  · have hsd : (!(laneOf s.dev l).sd) ≠ (laneOf s.dev l).sd := by simp
    refine ⟨_, exec_signalDetectChange ha (by simp [hraw]), ?_⟩
    simp only [if_neg hsd]
    simp [sdChanged]
  · refine ⟨_, exec_signalDetectChange ha hraw, ?_⟩
    simp only [if_pos]
    exact ⟨by simp [sdChanged], by simp [sdChanged], rfl, portCounted_bumpPort rfl (hdies ▸ lt_eight_of_alive hp)⟩
  · obtain ⟨e, hstep, hsig⟩ := exec_signalDetectValid_due ha hs he
    refine ⟨_, hstep, ?_⟩
    simp only [signalOf, laneOf_onLane_same, Prod.mk.injEq] at hsig
    exact hsig.2

end Sys2Proof.Machine
end

section
/-! PROOFS. O51 holds. LOCK.SVC is a bit of the AON domain, which most commands do not touch. One lemma for each operation
that does touch it says that the operation keeps the bit; under LOCK.SVC the guarded controls are ignored. So no command
clears the bit but the two causes of a package reset. -/

namespace Sys2Proof.Machine

open Sys2Proof.Claims

/- The guard of the AON domain keeps LOCK.SVC (R596, R597). -/

@[simp] theorem addFail_lock (a : Aon) : (addFail a).lock = a.lock := rfl
@[simp] theorem failGuard_lock (a : Aon) (t : Nat) : (failGuard a t).lock = a.lock := rfl

@[simp] theorem lapse_lock (s : State) : (lapse s).lock = s.aon.lock := by
  unfold lapse
  split
  · split
    · simp
    · rfl
  · rfl

@[simp] theorem guardRegWrite_lock (a : Aon) (t off v : Nat) : (guardRegWrite a t off v).lock = a.lock := by
  unfold guardRegWrite
  split
  · rfl
  · split <;> rfl

@[simp] theorem guardLocked_lock (s : State) : (guardLocked s).lock = s.aon.lock := rfl

/- So do start-up, the Keepers' restarts and the forager (R606 to R619, R674 to R682). -/

@[simp] theorem startDevice_lock (s : State) (k : Nat) (l : List Nat) : (startDevice s k l).aon.lock = s.aon.lock := rfl
@[simp] theorem startRecovery_lock (s : State) : (startRecovery s).aon.lock = s.aon.lock := rfl

@[simp] theorem bootFrom_lock (s : State) (k : Nat) (l : List Nat) (b : Bool) :
    (bootFrom s k l b).aon.lock = s.aon.lock := by
  cases b <;> rfl

@[simp] theorem trapKeeper_lock (s : State) (n c : Nat) : (trapKeeper s n c).aon.lock = s.aon.lock := by
  simp only [trapKeeper]
  split
  · rfl
  · split
    · rfl
    · split
      · rfl
      · split
        · split <;> simp
        · rfl

@[simp] theorem repairImage_lock (s : State) (n : Nat) (l : List Nat) : (repairImage s n l).aon.lock = s.aon.lock := by
  unfold repairImage
  split <;> rfl

@[simp] theorem keeperMemory_lock (s : State) (n m a y : Nat) (l : List Nat) :
    (keeperMemory s n m a y l).aon.lock = s.aon.lock := by
  simp only [keeperMemory]
  split <;> simp

@[simp] theorem foragerWord_lock (n m : Nat) (l : List Nat) (s : State) (a : Nat) (e : MemErr) :
    (foragerWord n m l s a e).aon.lock = s.aon.lock := by
  unfold foragerWord
  split
  · rfl
  · split
    · rfl
    · cases e with
      | none | ce => rfl
      | ue => simp

/- So do the flash, the fuses and the commands on them (R685 to R695). -/

@[simp] theorem judgeFlash_lock (a : Aon) (p : Part) (fw : Bool) : (judgeFlash a p fw).lock = a.lock := by
  cases fw <;> rfl

@[simp] theorem writeFlash_lock (s : State) (fw : Bool) (k op : Nat) (l : List Byte) (ok : Bool) :
    (writeFlash s fw k op l ok).1.aon.lock = s.aon.lock := by
  cases ok <;> simp [writeFlash]

@[simp] theorem burnFuse_lock (a : Aon) (id v : Nat) (l : List Byte) : (burnFuse a id v l).lock = a.lock := by
  unfold burnFuse
  split
  · rfl
  · split <;> rfl

/-- A command on the AON domain keeps LOCK.SVC where its effect does. -/
theorem runAon_lock (sp : CmdSpec) (c : Cmd) {act : State → State × Reply} (s : State)
    (h : ∀ s, (act s).1.aon.lock = s.aon.lock) : (runAon sp c act s).aon.lock = s.aon.lock := by
  unfold runAon
  split
  · rfl
  · split
    · rfl
    · exact h _

/- What a command answers while LOCK.SVC is set. -/

/-- The answer is a next state in which LOCK.SVC is set. -/
def AnswersLocked (o : Host.Outcome State Fault Refusal) : Prop := ∃ t, o = .next t ∧ t.aon.lock = true

/-- The commands that write a guarded register with `v` (R595). -/
def guardedControls (v : Word) : List Instr :=
  [.powerCapOverride v, .diePark v, .dieUnpark v, .leaseForceActive v, .leaseForceStandby v, .fuseProgEnable v]

theorem answersLocked_next {t : State} (h : t.aon.lock = true) : AnswersLocked (.next t) := ⟨t, rfl, h⟩

/-- An answer that is one of two has LOCK.SVC set when both have. -/
theorem answersLocked_ite {p : Prop} {_ : Decidable p} {x y : Host.Outcome State Fault Refusal} (hx : AnswersLocked x)
    (hy : AnswersLocked y) : AnswersLocked (if p then x else y) := by
  split <;> assumption

section
variable {s : State}

/-- LOCK_WRITE sets LOCK.SVC where it writes 1 to a die whose registers can be reached, and keeps it elsewhere; the device
stays as it was. -/
theorem exec_lockWrite (n : Nat) (v : Word) :
    ∃ a : Aon, exec (.lockWrite n v) s = .next { s with aon := a } ∧
      a.lock = (s.aon.lock || (regsUp s.dev n && bitOf v.toNat 0)) := by
  show ∃ a : Aon, execLockWrite n v s = _ ∧ _
  unfold execLockWrite
  cases regsUp s.dev n with
  | false => exact ⟨s.aon, rfl, by simp⟩
  | true =>
    cases bitOf v.toNat 0 with
    | false => exact ⟨s.aon, rfl, by simp⟩
    | true => exact ⟨_, rfl, by simp⟩

/-- PWR_OK_FALL and RAIL_UNDERVOLTAGE reset the package while PWR_OK is high. -/
theorem exec_of_isReset {i : Instr} (h : isReset i) :
    exec i s = .next (if s.dev.pwrOk then packageReset s else s) := by
  obtain rfl | rfl := h <;> rfl

/-- LOCK reads LOCK.SVC on every die whose registers can be reached (R580, R594). -/
theorem regRead_lock {n : Nat} (hup : regsUp s.dev n = true) :
    regRead s n .pf0 0x300 = BitVec.ofNat 32 (atBit 0 s.aon.lock) := by
  simp [regRead, fnUp, hup, pf0Read]

variable (hl : s.aon.lock = true)
include hl

theorem answersLocked_same : AnswersLocked (.next s) := answersLocked_next hl

/-- A command that changes the device alone does not clear LOCK.SVC. -/
theorem answersLocked_dev (d : Dev) : AnswersLocked (.next { s with dev := d }) := answersLocked_next hl

/-- Under LOCK.SVC no sequence writes a guarded register (R597). -/
theorem guardWrites_of_lock (v : Word) : guardWrites s v = none := by simp [guardWrites, hl]

/-- Under LOCK.SVC the guarded controls are ignored (R597). -/
theorem exec_guardedControls_of_lock {v : Word} {i : Instr} (hi : i ∈ guardedControls v) : exec i s = .next s := by
  have hnone := guardWrites_of_lock hl v
  simp only [guardedControls, List.mem_cons, List.not_mem_nil, or_false] at hi
  obtain rfl | rfl | rfl | rfl | rfl | rfl := hi
  · show execPowerCapOverride v s = _
    unfold execPowerCapOverride
    rw [hnone]
  · show execDiePark v s = _
    unfold execDiePark
    rw [hnone]
  · show execDieUnpark v s = _
    unfold execDieUnpark
    rw [hnone]
  · show execLeaseForceActive v s = _
    unfold execLeaseForceActive
    rw [hnone]
  · show execLeaseForceStandby v s = _
    unfold execLeaseForceStandby
    rw [hnone]
  · show execFuseProgEnable v s = _
    unfold execFuseProgEnable
    rw [hnone]

theorem execRegisterWrite_locked (n : Nat) (fn : Fn) (off : Nat) (v : Word) (be : BitVec 4) :
    AnswersLocked (execRegisterWrite n fn off v be s) := by
  refine answersLocked_ite (answersLocked_same hl) (answersLocked_next ?_)
  split <;> simp [hl]

theorem execGuardAWrite_locked (v : Word) : AnswersLocked (execGuardAWrite v s) := by
  unfold execGuardAWrite
  rw [if_pos hl]
  exact answersLocked_ite (answersLocked_same hl) (answersLocked_next hl)

theorem execGuardBFailedWrite_locked (v : Word) : AnswersLocked (execGuardBFailedWrite v s) := by
  unfold execGuardBFailedWrite
  rw [if_pos hl]
  exact answersLocked_ite (answersLocked_same hl) (answersLocked_next hl)

theorem execPwrOkRise_locked (l : List Nat) (b : Bool) : AnswersLocked (execPwrOkRise l b s) := by
  refine answersLocked_ite (answersLocked_same hl) (answersLocked_next ?_)
  dsimp only
  generalize pickCopy _ _ _ = cfg
  cases cfg <;> (split <;> simp [hl])

theorem execKeeperTrap_locked (n c : Nat) : AnswersLocked (execKeeperTrap n c s) :=
  answersLocked_ite (answersLocked_same hl) (answersLocked_next (by simp [hl]))

theorem execKeeperRestartDone_locked (r : ImageCopy) : AnswersLocked (execKeeperRestartDone r s) :=
  answersLocked_ite (answersLocked_same hl)
    (answersLocked_next ((apply_ite (fun s : State => s.aon.lock) _ _ _).trans (by simp [hl])))

theorem execForagerLine_locked (n m : Nat) (errs : List (Nat × MemErr)) (bad : List Nat) :
    AnswersLocked (execForagerLine n m errs bad s) := by
  refine answersLocked_ite (answersLocked_same hl) ?_
  split
  · exact answersLocked_same hl
  · exact answersLocked_next
      ((foldl_keeps (fun s : State => s.aon.lock) _ (fun _ _ => foragerWord_lock _ _ _ _ _ _) _ _).trans hl)

theorem execSecFwWrite_locked (c : Cmd) (l : List Byte) (w : FwWrite) : AnswersLocked (execSecFwWrite c l w s) := by
  refine answersLocked_next ?_
  split
  · exact (bootFrom_lock _ _ _ _).trans ((runAon_lock _ _ s fun _ => writeFlash_lock _ _ _ _ _ _).trans hl)
  · exact (runAon_lock _ _ s fun _ => writeFlash_lock _ _ _ _ _ _).trans hl

theorem execSecCfgWrite_locked (c : Cmd) (l : List Byte) (ok : Bool) : AnswersLocked (execSecCfgWrite c l ok s) :=
  answersLocked_next ((runAon_lock _ _ s fun _ => writeFlash_lock _ _ _ _ _ _).trans hl)

theorem execSecFuseProgram_locked (c : Cmd) (l : List Byte) : AnswersLocked (execSecFuseProgram c l s) := by
  refine answersLocked_next ?_
  split <;> exact (runAon_lock _ _ s fun _ => burnFuse_lock _ _ _ _).trans hl

/-- LOCK.SVC, once set, is left set by every command but one that resets the package. -/
theorem exec_locked {i : Instr} (hi : ¬ (isReset i ∧ s.dev.pwrOk = true)) : AnswersLocked (exec i s) := by
  by_cases hreset : isReset i
  · rw [exec_of_isReset hreset, if_neg fun hon => hi ⟨hreset, hon⟩]
    exact answersLocked_same hl
  cases i with
  | pwrOkFall => exact absurd (Or.inl rfl) hreset
  | railUndervoltage => exact absurd (Or.inr rfl) hreset
  | lockWrite n v =>
    obtain ⟨a, hstep, hlock⟩ := exec_lockWrite (s := s) n v
    exact ⟨_, hstep, by simp [hlock, hl]⟩
  | powerCapOverride v | diePark v | dieUnpark v | leaseForceActive v | leaseForceStandby v | fuseProgEnable v =>
    exact ⟨s, exec_guardedControls_of_lock hl (v := v) (by simp [guardedControls]), hl⟩
  | registerWrite n fn off v be => exact execRegisterWrite_locked hl n fn off v be
  | guardAWrite v => exact execGuardAWrite_locked hl v
  | guardBFailedWrite v => exact execGuardBFailedWrite_locked hl v
  | guardWindowExpiry => exact answersLocked_next ((lapse_lock s).trans hl)
  | guardedDirectWrite => exact answersLocked_ite (answersLocked_next hl) (answersLocked_same hl)
  | fuseProgEnTimeout => exact answersLocked_ite (answersLocked_next hl) (answersLocked_same hl)
  | pwrOkRise l b => exact execPwrOkRise_locked hl l b
  | debugMailboxAccess => exact answersLocked_next (by split <;> exact hl)
  | keeperTrap n c => exact execKeeperTrap_locked hl n c
  | firmwareWatchdogExpiry n => exact answersLocked_next ((trapKeeper_lock s n 1).trans hl)
  | keeperRestartDone r => exact execKeeperRestartDone_locked hl r
  | foragerLine n m errs bad => exact execForagerLine_locked hl n m errs bad
  | secFwWrite c l w => exact execSecFwWrite_locked hl c l w
  | secCfgWrite c l ok => exact execSecCfgWrite_locked hl c l ok
  | secFuseProgram c l => exact execSecFuseProgram_locked hl c l
  | _ => exact answersLocked_dev hl _

/-- Only a package reset clears LOCK.SVC. -/
theorem isReset_of_lock_cleared {i : Instr} {t : State} (hstep : exec i s = .next t) (hclear : t.aon.lock = false) :
    isReset i ∧ s.dev.pwrOk = true := by
  refine Classical.byContradiction fun hi => ?_
  obtain ⟨u, hu, hset⟩ := exec_locked hl hi
  obtain rfl := Host.Outcome.next.inj (hstep.symm.trans hu)
  exact absurd hset (by simp [hclear])

end

/-- Settles O51: LOCK_WRITE sets the one bit that LOCK reads on every die, and a package reset alone clears it. -/
theorem lockSvc : Obligations.LockSvc := by
  intro s
  refine ⟨fun n v hup hbit => ?_, fun n hup hlock => ?_,
    fun i t hstep hset hclear => isReset_of_lock_cleared hset hstep hclear, fun hon i hreset => ?_⟩
  · obtain ⟨a, hstep, hlock⟩ := exec_lockWrite (s := s) n v
    have hset : a.lock = true := by simp [hlock, hup, hbit]
    refine ⟨_, hstep, hset, fun m hm => ?_⟩
    rw [regRead_lock hm]
    simp [hset, atBit]
  · rw [regRead_lock hup]
    simp [hlock, atBit]
  · exact ⟨packageReset s, by simp [exec_of_isReset hreset, hon], rfl⟩

end Sys2Proof.Machine
end
